-- ==== Sys2Proof/Word.lean ====
section
/-! DEFINITION. The word types of the Block's channels and the raw frame (spec/00_scope.md R7,
spec/30_encoding.md R94). -/

namespace Sys2Proof

/-- One byte: a device register address, a device register value, a byte of a frame (R50). -/
abbrev Byte := BitVec 8

/-- A command word (R81), `CMD[41:0]`. -/
abbrev CmdWord := BitVec 42

/-- A component in milli-G, `SAMPLE_W` = 20 bits, two's complement (R6, R7). -/
abbrev Comp := BitVec 20

/-- An angle in milli-degrees, `ANGLE_W` = 18 bits, two's complement (R6, R7). -/
abbrev AngleWord := BitVec 18

/-- A transport request word (R88), `TXQ[19:0]`. -/
abbrev TxqWord := BitVec 20

/-- A transport answer word (R89), `TXA[48:0]`. -/
abbrev TxaWord := BitVec 49

/-- A response word (R85), `RSP[61:0]`. -/
abbrev RspWord := BitVec 62

/-- A response payload (R85), bits 59:0 of the response word. -/
abbrev Payload := BitVec 60

/-- The document's RawRegisterFrame: six bytes, `b0` the first one received (R23). -/
structure Frame where
  b0 : Byte
  b1 : Byte
  b2 : Byte
  b3 : Byte
  b4 : Byte
  b5 : Byte
  deriving DecidableEq, Repr

end Sys2Proof
end

