-- ==== Sys2Proof/Config/Arctan.lean ====
section
/-! DEFINITION. The exact angle of spec/43_angle.md R172, the contract of R173 on an approximant, and
one computable approximant that meets it. The approximant is used for ONE purpose: to show that the
contract can be met, so that `Config.atanUnit` (Config.lean) may be an opaque value of a type that
carries the contract. Nothing in the model computes with it. -/

namespace Sys2Proof.Config

/-- `PI_BZ` = 3.14159265359 exactly (R6, R172). -/
def piBz : ℚ := 314159265359 / 100000000000

/-- `1000 * THETA(a, z)` of R172: the exact angle of the quotient `a / z`, in milli-degrees. It is a
mathematical real number, no value of the machine. -/
noncomputable def thetaMdeg (a z : ℤ) : ℝ :=
  1000 * (Real.arctan ((a : ℝ) / (z : ℝ)) * 360 / (2 * ((piBz : ℚ) : ℝ)))

/-- (P1) and (P2) of R173 for one pair of operands: off by less than one unit of 0.001 degree, and in
the document's range. -/
def Admissible (a z m : ℤ) : Prop :=
  |(m : ℝ) - thetaMdeg a z| < 1 ∧ -90000 < m ∧ m ≤ 90000

/-- The contract of R173 on a whole approximant. That it is a function of its two arguments alone
(R174) is its type. -/
def AtanContract (f : Comp → Comp → AngleWord) : Prop :=
  ∀ a z : Comp, a ≠ 0 → z ≠ 0 → Admissible a.toInt z.toInt (f a z).toInt

/-! ## One approximant, to show that the contract can be met -/

/-- The first nine terms of the arctangent's power series. -/
def arctanPoly (x : ℚ) : ℚ :=
  x - x ^ 3 / 3 + x ^ 5 / 5 - x ^ 7 / 7 + x ^ 9 / 9 - x ^ 11 / 11 + x ^ 13 / 13 - x ^ 15 / 15
    + x ^ 17 / 17

/-- An arctangent of a non-negative rational, by reduction to arguments of at most one half. -/
def arctanPos (q : ℚ) : ℚ :=
  if q ≤ 1 / 2 then arctanPoly q
  else if q ≤ 2 then piBz / 4 + arctanPoly ((q - 1) / (q + 1))
  else piBz / 2 - arctanPoly (1 / q)

/-- An arctangent of any rational. -/
def arctanApprox (q : ℚ) : ℚ :=
  if 0 ≤ q then arctanPos q else -arctanPos (-q)

/-- The milli-degrees nearest to the approximate angle, kept above -90000. -/
def atanSample (a z : ℤ) : ℤ :=
  let m := round (1000 * (arctanApprox ((a : ℚ) / (z : ℚ)) * 360 / (2 * piBz)))
  if m = -90000 then -89999 else m

/-- The power series' partial sum over the reals. -/
noncomputable def arctanPolyReal (x : ℝ) : ℝ :=
  x - x ^ 3 / 3 + x ^ 5 / 5 - x ^ 7 / 7 + x ^ 9 / 9 - x ^ 11 / 11 + x ^ 13 / 13 - x ^ 15 / 15
    + x ^ 17 / 17

theorem arctanPoly_cast (x : ℚ) : ((arctanPoly x : ℚ) : ℝ) = arctanPolyReal (x : ℝ) := by
  simp [arctanPoly, arctanPolyReal]

theorem hasDerivAt_arctan_sub_poly (x : ℝ) :
    HasDerivAt (fun y => Real.arctan y - arctanPolyReal y) (-(x ^ 18 / (1 + x ^ 2))) x := by
  have hpow (n : ℕ) : HasDerivAt (fun y : ℝ => y ^ (n + 1) / ((n : ℝ) + 1)) (x ^ n) x := by
    have := (hasDerivAt_pow (n + 1) x).div_const ((n : ℝ) + 1)
    refine this.congr_deriv ?_
    have : (n : ℝ) + 1 ≠ 0 := by positivity
    push_cast
    rw [mul_div_assoc, mul_comm, div_mul_cancel₀ _ this]
  have hp : HasDerivAt arctanPolyReal
      (1 - x ^ 2 + x ^ 4 - x ^ 6 + x ^ 8 - x ^ 10 + x ^ 12 - x ^ 14 + x ^ 16) x := by
    have h := ((((((((hasDerivAt_id x).sub (hpow 2)).add (hpow 4)).sub (hpow 6)).add
      (hpow 8)).sub (hpow 10)).add (hpow 12)).sub (hpow 14)).add (hpow 16)
    refine h.congr_of_eventuallyEq (Filter.Eventually.of_forall fun y => ?_)
    simp [arctanPolyReal]
    norm_num
  refine ((Real.hasDerivAt_arctan x).sub hp).congr_deriv ?_
  have : (1 : ℝ) + x ^ 2 ≠ 0 := by positivity
  field_simp
  ring

theorem arctan_sub_poly_le {x : ℝ} (hx : |x| ≤ 1 / 2) :
    |Real.arctan x - arctanPolyReal x| ≤ 1 / 2 ^ 19 := by
  have hbound : ∀ y ∈ Set.Icc (-(1 / 2) : ℝ) (1 / 2), ‖-(y ^ 18 / (1 + y ^ 2))‖ ≤ 1 / 2 ^ 18 := by
    intro y hy
    have hy' : |y| ≤ 1 / 2 := abs_le.2 ⟨hy.1, hy.2⟩
    have h18 : y ^ 18 ≤ 1 / 2 ^ 18 := by
      have := pow_le_pow_left₀ (abs_nonneg y) hy' 18
      rw [← abs_pow, abs_of_nonneg (by positivity : (0 : ℝ) ≤ y ^ 18)] at this
      norm_num at this ⊢
      exact this
    rw [norm_neg, Real.norm_of_nonneg (by positivity)]
    exact (div_le_self (by positivity) (by nlinarith [sq_nonneg y])).trans h18
  have hmv := (convex_Icc (-(1 / 2) : ℝ) (1 / 2)).norm_image_sub_le_of_norm_hasDerivWithin_le
    (f := fun y => Real.arctan y - arctanPolyReal y)
    (fun y _ => (hasDerivAt_arctan_sub_poly y).hasDerivWithinAt) hbound
    (show (0 : ℝ) ∈ Set.Icc (-(1 / 2) : ℝ) (1 / 2) by norm_num)
    (show x ∈ Set.Icc (-(1 / 2) : ℝ) (1 / 2) from abs_le.1 hx)
  have h0 : Real.arctan 0 - arctanPolyReal 0 = 0 := by simp [arctanPolyReal]
  simp only [h0, sub_zero, Real.norm_eq_abs] at hmv
  calc |Real.arctan x - arctanPolyReal x| ≤ 1 / 2 ^ 18 * |x| := hmv
    _ ≤ 1 / 2 ^ 18 * (1 / 2) := by gcongr
    _ = 1 / 2 ^ 19 := by norm_num

theorem piBz_real : ((piBz : ℚ) : ℝ) = 3.14159265359 := by norm_num [piBz]

theorem pi_sub_piBz : |Real.pi - ((piBz : ℚ) : ℝ)| ≤ 1 / 10 ^ 12 := by
  have h1 := Real.pi_gt_d20
  have h2 := Real.pi_lt_d20
  rw [piBz_real, abs_le]
  constructor <;> norm_num at * <;> linarith

theorem arctanPos_close {q : ℚ} (hq : 0 ≤ q) :
    |Real.arctan (q : ℝ) - ((arctanPos q : ℚ) : ℝ)| ≤ 1 / 2 ^ 18 := by
  have hqr : (0 : ℝ) ≤ (q : ℝ) := by exact_mod_cast hq
  have hpi := abs_le.1 pi_sub_piBz
  unfold arctanPos
  split_ifs with h1 h2
  · have h1r : (q : ℝ) ≤ 1 / 2 := by exact_mod_cast (Rat.cast_le (K := ℝ)).2 h1 |>.trans (by norm_num)
    rw [arctanPoly_cast]
    refine (arctan_sub_poly_le (by rw [abs_of_nonneg hqr]; exact h1r)).trans (by norm_num)
  · have h1r : (1 : ℝ) / 2 < (q : ℝ) := by
      have := (Rat.cast_lt (K := ℝ)).2 (not_le.1 h1); push_cast at this; exact this
    have h2r : (q : ℝ) ≤ 2 := by exact_mod_cast (Rat.cast_le (K := ℝ)).2 h2
    set y : ℝ := ((q : ℝ) - 1) / ((q : ℝ) + 1) with hy
    have hq1 : (0 : ℝ) < (q : ℝ) + 1 := by linarith
    have hyb : |y| ≤ 1 / 2 := by
      rw [abs_le, hy]
      constructor
      · rw [le_div_iff₀ hq1]; linarith
      · rw [div_le_iff₀ hq1]; linarith
    have hadd : Real.arctan (q : ℝ) = Real.pi / 4 + Real.arctan y := by
      have hlt : (1 : ℝ) * y < 1 := by have := (abs_le.1 hyb).2; linarith
      rw [← Real.arctan_one, Real.arctan_add hlt]
      congr 1
      have : (1 : ℝ) - y ≠ 0 := by have := (abs_le.1 hyb).2; intro h; linarith
      rw [eq_div_iff (by simpa using this), hy]
      field_simp
      ring
    have hp := abs_le.1 (arctan_sub_poly_le hyb)
    rw [hadd]
    push_cast [arctanPoly_cast]
    rw [← hy, abs_le]
    norm_num at hp hpi ⊢
    constructor <;> linarith [hp.1, hp.2, hpi.1, hpi.2]
  · have h2r : (2 : ℝ) < (q : ℝ) := by
      have := (Rat.cast_lt (K := ℝ)).2 (not_le.1 h2); push_cast at this; exact this
    have hqp : (0 : ℝ) < (q : ℝ) := by linarith
    have hyb : |((q : ℝ))⁻¹| ≤ 1 / 2 := by
      rw [abs_of_pos (by positivity), inv_le_comm₀ hqp (by norm_num)]
      norm_num
      exact h2r.le
    have hinv : Real.arctan (q : ℝ) = Real.pi / 2 - Real.arctan ((q : ℝ))⁻¹ := by
      rw [Real.arctan_inv_of_pos hqp]; ring
    have hp := abs_le.1 (arctan_sub_poly_le hyb)
    rw [hinv]
    push_cast
    rw [show ((arctanPoly (1 / q) : ℚ) : ℝ) = arctanPolyReal ((q : ℝ))⁻¹ by
      rw [arctanPoly_cast]; push_cast; rw [one_div], abs_le]
    norm_num at hp hpi ⊢
    constructor <;> linarith [hp.1, hp.2, hpi.1, hpi.2]

theorem arctanApprox_close (q : ℚ) :
    |Real.arctan (q : ℝ) - ((arctanApprox q : ℚ) : ℝ)| ≤ 1 / 2 ^ 18 := by
  unfold arctanApprox
  split_ifs with h
  · exact arctanPos_close h
  · have hn : 0 ≤ -q := by linarith [not_le.1 h]
    have := arctanPos_close hn
    push_cast at this ⊢
    rw [Real.arctan_neg] at this
    rw [← abs_neg]
    convert this using 2
    ring

/-- R172's remark on the range: the exact angle lies strictly between -90 and 90 degrees. -/
theorem thetaMdeg_range (a z : ℤ) : -90000 < thetaMdeg a z ∧ thetaMdeg a z < 90000 := by
  have h1 := Real.arctan_lt_pi_div_two ((a : ℝ) / (z : ℝ))
  have h2 := Real.neg_pi_div_two_lt_arctan ((a : ℝ) / (z : ℝ))
  have hpi : Real.pi < 3.14159265359 := lt_trans Real.pi_lt_d20 (by norm_num)
  have hpos : (0 : ℝ) < 2 * 3.14159265359 := by norm_num
  unfold thetaMdeg
  rw [piBz_real]
  constructor
  · rw [← sub_pos]
    have : 1000 * (Real.arctan ((a : ℝ) / (z : ℝ)) * 360 / (2 * 3.14159265359)) - -90000
        = 180000 / 3.14159265359 * (Real.arctan ((a : ℝ) / (z : ℝ)) + 3.14159265359 / 2) := by
      ring
    rw [this]
    apply mul_pos (by norm_num)
    linarith
  · rw [← sub_pos]
    have : 90000 - 1000 * (Real.arctan ((a : ℝ) / (z : ℝ)) * 360 / (2 * 3.14159265359))
        = 180000 / 3.14159265359 * (3.14159265359 / 2 - Real.arctan ((a : ℝ) / (z : ℝ))) := by
      ring
    rw [this]
    apply mul_pos (by norm_num)
    linarith

theorem atanSample_admissible (a z : ℤ) : Admissible a z (atanSample a z) := by
  have hr := thetaMdeg_range a z
  set w : ℚ := 1000 * (arctanApprox ((a : ℚ) / (z : ℚ)) * 360 / (2 * piBz)) with hw
  have hclose : |thetaMdeg a z - (w : ℝ)| ≤ 1 / 4 := by
    have h := arctanApprox_close ((a : ℚ) / (z : ℚ))
    have hcast : (((a : ℚ) / (z : ℚ) : ℚ) : ℝ) = (a : ℝ) / (z : ℝ) := by push_cast; rfl
    rw [hcast] at h
    have hdiff : thetaMdeg a z - (w : ℝ) = 180000 / 3.14159265359 *
        (Real.arctan ((a : ℝ) / (z : ℝ)) - ((arctanApprox ((a : ℚ) / (z : ℚ)) : ℚ) : ℝ)) := by
      rw [hw]
      unfold thetaMdeg
      push_cast
      rw [piBz_real]
      ring
    rw [hdiff, abs_mul, abs_of_pos (by norm_num)]
    calc (180000 / 3.14159265359 : ℝ) * _ ≤ 180000 / 3.14159265359 * (1 / 2 ^ 18) := by gcongr
      _ ≤ 1 / 4 := by norm_num
  have hround : |(w : ℝ) - ((round w : ℤ) : ℝ)| ≤ 1 / 2 := by
    have := abs_sub_round w
    have h2 := (Rat.cast_le (K := ℝ)).2 this
    push_cast at h2
    exact h2
  have hc := abs_le.1 hclose
  have hd := abs_le.1 hround
  have hm : atanSample a z = if round w = -90000 then -89999 else round w := rfl
  have hlo : (-90001 : ℤ) < round w := by
    have : ((-90001 : ℤ) : ℝ) < ((round w : ℤ) : ℝ) := by push_cast; linarith [hc.1, hc.2, hd.1, hd.2]
    exact_mod_cast this
  have hhi : round w < (90001 : ℤ) := by
    have : ((round w : ℤ) : ℝ) < ((90001 : ℤ) : ℝ) := by push_cast; linarith [hc.1, hc.2, hd.1, hd.2]
    exact_mod_cast this
  rw [hm]
  split_ifs with h
  · rw [h] at hd
    push_cast at hd
    refine ⟨?_, by norm_num, by norm_num⟩
    rw [abs_lt]
    push_cast
    constructor <;> linarith [hc.1, hc.2, hd.1, hd.2, hr.1]
  · refine ⟨?_, by omega, by omega⟩
    rw [abs_lt]
    constructor <;> linarith [hc.1, hc.2, hd.1, hd.2]

/-- The approximant on words. -/
def atanSampleWord (a z : Comp) : AngleWord := BitVec.ofInt 18 (atanSample a.toInt z.toInt)

/-- The contract of R173 can be met ("The two are always satisfiable together"). -/
theorem atanSampleWord_contract : AtanContract atanSampleWord := by
  intro a z _ _
  have h := atanSample_admissible a.toInt z.toInt
  have hi : (atanSampleWord a z).toInt = atanSample a.toInt z.toInt := by
    unfold atanSampleWord
    rw [BitVec.toInt_ofInt]
    have h1 := h.2.1
    have h2 := h.2.2
    apply Int.bmod_eq_of_le <;> norm_num <;> omega
  rw [hi]
  exact h

end Sys2Proof.Config
end

