-- ==== Sys2Proof/Config.lean ====
section
/-! DEFINITION. The parameters of one instance of the Block (spec/00_scope.md R6): the fixed constants,
the calibration offsets, and the one free function, the arctangent approximant. -/

namespace Sys2Proof.Config

/-- `FACTOR_MG`: milli-G per raw LSB (R6). -/
def factorMg : Int := 4

/-- `SNAP_MG`: the strict zero-snap threshold in milli-G (R6). -/
def snapMg : Int := 5

/-- `INIT_SEQ`: the four (address, value) pairs that INIT writes, in order (R6, R91). -/
def initSeq : Fin 4 → Byte × Byte
  | 0 => (0x2C, 0x0A)
  | 1 => (0x2D, 0x08)
  | 2 => (0x2E, 0x00)
  | 3 => (0x31, 0x00)

/-- `DATA_BASE`: the register address READ selects (R6). -/
def dataBase : Byte := 0x32

/-- `FRAME_LEN`: the number of bytes READ reads (R6). -/
def frameLen : Nat := 6

/-- The calibration offsets of one instance, signed 16-bit integers in milli-G (R6, R27). The default is
the document's (0, 0, 100). They are plain data beside the state, so that a statement over all states
holds for every offset the spec allows. -/
structure Offsets where
  offX : BitVec 16 := 0
  offY : BitVec 16 := 0
  offZ : BitVec 16 := 100
  deriving DecidableEq, Repr

/-- `DEV_ADDR`: the device's 7-bit bus address (R6). OPEN and owned by the Transport: no rule of the
Block reads it, and no definition of the model does. -/
opaque devAddr : BitVec 7

/-- An arctangent approximant together with the proof that it meets the contract of R173. -/
structure AtanUnit where
  fn : Comp → Comp → AngleWord
  contract : AtanContract fn

/-- `ATAN_MDEG` (R6, R173, R174): OPEN, an uninterpreted function under the contract of R173. FREE VALUE:
it has no body, so nothing evaluates it and nothing is known of it but its contract. Lean asks of an
opaque constant only that its type has a value; the argument in brackets is that value. -/
opaque atanUnit [Inhabited AtanUnit] : AtanUnit

/-- `ATAN_MDEG(a, z)` on words. -/
def atanMdeg : Comp → Comp → AngleWord :=
  (@atanUnit ⟨⟨atanSampleWord, atanSampleWord_contract⟩⟩).fn

/-- R173: the Block's approximant meets its contract. -/
theorem atanMdeg_contract : AtanContract atanMdeg :=
  (@atanUnit ⟨⟨atanSampleWord, atanSampleWord_contract⟩⟩).contract

end Sys2Proof.Config
end

