-- ==== Sys2Proof/Syntax.lean ====
section
/-! DEFINITION. The encoded things of spec/opcode_table.json: one constructor of `Instr` per row, and the
words they are encoded in, one constructor of `Encoded` per format (spec/30_encoding.md R97). -/

namespace Sys2Proof

/-- One constructor per row of spec/opcode_table.json. -/
inductive Instr where
  /-- INIT (R113). `pad` is bits 39:0 of the command word, which the Block ignores (R84). -/
  | init (pad : BitVec 40)
  /-- READ (R114). `pad` as for INIT. -/
  | read (pad : BitVec 40)
  /-- TILT a, z (R176): the x and the z component in milli-G. -/
  | tilt (a z : Comp)
  /-- AWE a, z (R177): the y and the z component in milli-G. -/
  | awe (a z : Comp)
  /-- REGWR.frame: the generic register write frame, address then value (R90, R111). -/
  | regwrFrame (addr value : Byte)
  /-- INIT.write1: rate register 0x2C, 0x0A (R91). -/
  | initWrite1
  /-- INIT.write2: power-control register 0x2D, 0x08 (R91). -/
  | initWrite2
  /-- INIT.write3: interrupt-enable register 0x2E, 0x00 (R91). -/
  | initWrite3
  /-- INIT.write4: data-format register 0x31, 0x00 (R91). -/
  | initWrite4
  /-- REGRD.select: the generic register select frame (R92, R112). -/
  | regrdSelect (addr : Byte)
  /-- READ.select: the one select frame the Block sends, 0x32 (R92). -/
  | readSelect
  /-- READ.data: the six bytes of the data frame, in order of reception (R92, R140). -/
  | readData (f : Frame)
  /-- TXQ.write: `Transport.write([w0, w1])` (R88). -/
  | txqWrite (w0 w1 : Byte)
  /-- TXQ.write_then_read: `Transport.write_then_read([w0], 6)` (R88). -/
  | txqWriteThenRead (w0 : Byte)
  deriving DecidableEq, Repr

/-- A word together with the format it is read in. The five formats of the table travel on different
channels, so a word's format is known before it is decoded (R80, R88, R90, R92). -/
inductive Encoded where
  /-- Formats CMD_C and CMD_A: a command word (R81). -/
  | cmd (w : CmdWord)
  /-- Format BUS_W2: byte 0 (sent first) in bits 15:8 (R90). -/
  | busW2 (w : BitVec 16)
  /-- Format BUS_SEL1 (R92). -/
  | busSel1 (w : BitVec 8)
  /-- Format BUS_DATA6: byte 0 (received first) in bits 47:40 (R92). -/
  | busData6 (w : BitVec 48)
  /-- Format TXQ (R88). -/
  | txq (w : TxqWord)
  deriving DecidableEq, Repr

/-- Why a word decodes to nothing. Only transport request words can be rejected: R93 gives the command
words and the frames no illegal value, and R88 gives `rlen` and `w1` the values they must have. -/
inductive DecodeReject where
  /-- `kind` = 0 with `rlen` other than 0 (R88). -/
  | writeWithReadLength
  /-- `kind` = 1 with `rlen` other than 6 (R88). -/
  | readLengthNotSix
  /-- `kind` = 1 with `w1` other than 0 (R88: "not sent and driven 0"). -/
  | readWithSecondByte
  deriving DecidableEq, Repr

end Sys2Proof
end

