-- ==== Sys2Proof/WellFormed.lean ====
section
/-! DEFINITION. Which instructions are the decoding of some word. Two generic rows of the table share
words with more specific rows; the specific row wins, so the generic one is ill formed there. -/

namespace Sys2Proof

/-- Why an instruction is ill formed. -/
inductive IllFormed where
  /-- A REGWR.frame whose two bytes are one of the four frames of R91: that word is INIT.write1 to
  INIT.write4. -/
  | isInitFrame
  /-- A REGRD.select of address 0x32: that word is READ.select (R92). -/
  | isReadSelect
  deriving DecidableEq, Repr

/-- The two bytes are a frame of `INIT_SEQ` (R91). -/
def isInitPair (addr value : Byte) : Bool :=
  (addr, value) == Config.initSeq 0 || (addr, value) == Config.initSeq 1 ||
    (addr, value) == Config.initSeq 2 || (addr, value) == Config.initSeq 3

/-- The check that an instruction fails, if any. -/
def Instr.illFormed : Instr → Option IllFormed
  | .init _ => none
  | .read _ => none
  | .tilt _ _ => none
  | .awe _ _ => none
  | .regwrFrame addr value => if isInitPair addr value then some .isInitFrame else none
  | .initWrite1 => none
  | .initWrite2 => none
  | .initWrite3 => none
  | .initWrite4 => none
  | .regrdSelect addr => if addr = Config.dataBase then some .isReadSelect else none
  | .readSelect => none
  | .readData _ => none
  | .txqWrite _ _ => none
  | .txqWriteThenRead _ => none

/-- The instruction passes every check. -/
abbrev Instr.WellFormed (i : Instr) : Prop := i.illFormed = none

end Sys2Proof
end

