-- ==== Sys2Proof/Decode.lean ====
section
/-! DEFINITION. The decoder and, after it, the encoder, written from the tables of
spec/30_encoding.md; then the numbering of words that the opcode table uses, and the assembler's
spelling of a command (R95). -/

namespace Sys2Proof

/-- A command word (R81, R82, R83): the opcode is bits 41:40; all four values are used (R93). -/
def decodeCmd (w : CmdWord) : Instr :=
  let op := w.extractLsb' 40 2
  if op = 0b00 then .init (w.extractLsb' 0 40)
  else if op = 0b01 then .read (w.extractLsb' 0 40)
  else if op = 0b10 then .tilt (w.extractLsb' 20 20) (w.extractLsb' 0 20)
  else .awe (w.extractLsb' 20 20) (w.extractLsb' 0 20)

/-- A register write frame (R90); the four frames of R91 have rows of their own. -/
def decodeW2 (w : BitVec 16) : Instr :=
  if w = 0x2C0A then .initWrite1
  else if w = 0x2D08 then .initWrite2
  else if w = 0x2E00 then .initWrite3
  else if w = 0x3100 then .initWrite4
  else .regwrFrame (w.extractLsb' 8 8) (w.extractLsb' 0 8)

/-- A register select frame (R92); 0x32 has a row of its own. -/
def decodeSel1 (w : BitVec 8) : Instr :=
  if w = 0x32 then .readSelect else .regrdSelect w

/-- The six bytes of a 48-bit data frame pattern, byte 0 the most significant (R92). -/
def frameOfPattern (w : BitVec 48) : Frame :=
  ⟨w.extractLsb' 40 8, w.extractLsb' 32 8, w.extractLsb' 24 8, w.extractLsb' 16 8,
    w.extractLsb' 8 8, w.extractLsb' 0 8⟩

/-- A transport request word (R88): `kind` is bit 19, `rlen` bits 18:16, `w0` bits 15:8, `w1` bits 7:0. -/
def decodeTxq (w : TxqWord) : Except DecodeReject Instr :=
  let kind := w.extractLsb' 19 1
  let rlen := w.extractLsb' 16 3
  let w0 := w.extractLsb' 8 8
  let w1 := w.extractLsb' 0 8
  if kind = 0 then
    if rlen = 0 then .ok (.txqWrite w0 w1) else .error .writeWithReadLength
  else if rlen = 6 then
    if w1 = 0 then .ok (.txqWriteThenRead w0) else .error .readWithSecondByte
  else .error .readLengthNotSix

/-- The decoder: total on every word of every format, rejecting by name. -/
def decode : Encoded → Except DecodeReject Instr
  | .cmd w => .ok (decodeCmd w)
  | .busW2 w => .ok (decodeW2 w)
  | .busSel1 w => .ok (decodeSel1 w)
  | .busData6 w => .ok (.readData (frameOfPattern w))
  | .txq w => decodeTxq w

/-! ## The encoder -/

/-- A format C command word: `op` in 41:40, the ignored bits as they are (R81). -/
def cmdWordC (op : BitVec 2) (pad : BitVec 40) : CmdWord := op ++ pad

/-- A format A command word: `op` in 41:40, `a` in 39:20, `z` in 19:0 (R81). -/
def cmdWordA (op : BitVec 2) (a z : Comp) : CmdWord := op ++ (a ++ z)

/-- A write frame in sending order (R90). -/
def writeFrameWord (addr value : Byte) : BitVec 16 := addr ++ value

/-- A data frame in order of reception (R92). -/
def patternOfFrame (f : Frame) : BitVec 48 :=
  f.b0 ++ (f.b1 ++ (f.b2 ++ (f.b3 ++ (f.b4 ++ f.b5))))

/-- A transport request word (R88). -/
def txqWord (kind : BitVec 1) (rlen : BitVec 3) (w0 w1 : Byte) : TxqWord :=
  kind ++ (rlen ++ (w0 ++ w1))

/-- The word of an instruction, in its row's format. -/
def encode : Instr → Encoded
  | .init pad => .cmd (cmdWordC 0b00 pad)
  | .read pad => .cmd (cmdWordC 0b01 pad)
  | .tilt a z => .cmd (cmdWordA 0b10 a z)
  | .awe a z => .cmd (cmdWordA 0b11 a z)
  | .regwrFrame addr value => .busW2 (writeFrameWord addr value)
  | .initWrite1 => .busW2 0x2C0A
  | .initWrite2 => .busW2 0x2D08
  | .initWrite3 => .busW2 0x2E00
  | .initWrite4 => .busW2 0x3100
  | .regrdSelect addr => .busSel1 addr
  | .readSelect => .busSel1 0x32
  | .readData f => .busData6 (patternOfFrame f)
  | .txqWrite w0 w1 => .txq (txqWord 0 0 w0 w1)
  | .txqWriteThenRead w0 => .txq (txqWord 1 6 w0 0)

/-! ## The opcode table's numbering -/

/-- The word of `nbits` bits numbered `w`, with its format. The formats are told apart by their length
in whole bytes: 1 a select frame, 2 a write frame, 3 a transport request, 6 a command or a data frame.
A 48-bit number whose bits 47:42 are 0 is read as a command (whose 42 bits fill six bytes); any other
is a data frame (log entry 7). -/
def tableWord (nbits w : Nat) : Option Encoded :=
  if nbits ≤ 8 then
    if w < 2 ^ 8 then some (.busSel1 (BitVec.ofNat 8 w)) else none
  else if nbits ≤ 16 then
    if w < 2 ^ 16 then some (.busW2 (BitVec.ofNat 16 w)) else none
  else if nbits ≤ 24 then
    if w < 2 ^ 20 then some (.txq (BitVec.ofNat 20 w)) else none
  else if nbits ≤ 48 then
    if w < 2 ^ 42 then some (.cmd (BitVec.ofNat 42 w))
    else if nbits = 48 ∧ w < 2 ^ 48 then some (.busData6 (BitVec.ofNat 48 w))
    else none
  else none

/-- The instruction the decoder reads from a word numbered as spec/opcode_table.json numbers it. -/
def decodeTableWord (nbits w : Nat) : Option Instr :=
  match tableWord nbits w with
  | none => none
  | some e =>
    match decode e with
    | .ok i => some i
    | .error _ => none

/-! ## The assembler's spelling -/

/-- A command in the assembler syntax of R95; only the four commands are written in it. -/
def asm : Instr → Option String
  | .init _ => some "INIT"
  | .read _ => some "READ"
  | .tilt a z => some ("TILT " ++ toString a.toInt ++ ", " ++ toString z.toInt)
  | .awe a z => some ("AWE  " ++ toString a.toInt ++ ", " ++ toString z.toInt)
  | .regwrFrame _ _ => none
  | .initWrite1 => none
  | .initWrite2 => none
  | .initWrite3 => none
  | .initWrite4 => none
  | .regrdSelect _ => none
  | .readSelect => none
  | .readData _ => none
  | .txqWrite _ _ => none
  | .txqWriteThenRead _ => none

end Sys2Proof
end

