-- ==== Sys2Proof/Machine/State.lean ====
section
/-! DEFINITION. The state of the machine as plain data: the Block's registers (spec/10_state.md R20), the
bus transaction in flight (R32 (d)), the event trace (R33), the instance's offsets (R27), and the
Host's and the Transport's side of the channels (spec/30_encoding.md R80, R85, R89). -/

namespace Sys2Proof.Machine

/-- `DS`, the driver state: exactly two values (R21). -/
inductive DriverState where
  | uninitialized
  | ready
  deriving DecidableEq, Repr

/-- `PH`, the sequencer phase: the eight values IDLE, INIT0 to INIT3, RD, ANG, RESP (R22). -/
inductive Phase where
  | idle
  /-- `init k` is INITk: write k+1 of `INIT_SEQ` is requested and not yet answered. -/
  | init (k : Fin 4)
  | rd
  | ang
  | resp
  deriving DecidableEq, Repr

/-- The closed error taxonomy (R190). -/
inductive Error where
  | transportError
  | notInitialized
  | invalidRegisterValue
  deriving DecidableEq, Repr

/-- A response (R85, R87): status OK with its 60 payload bits, or an error, which has no payload. -/
inductive Response where
  | ok (payload : Payload)
  | error (e : Error)
  deriving DecidableEq, Repr

/-- A bus transaction the Block may request (R53, R54). The length of a read is always `FRAME_LEN`. -/
inductive Txn where
  /-- `W[addr value]` -/
  | write (addr value : Byte)
  /-- `WR[addr],6` -/
  | writeThenRead (addr : Byte)
  deriving DecidableEq, Repr

/-- A bus transaction with its answer: one finished entry of the event trace (R33). -/
inductive Event where
  /-- `W[addr value] -> Ok` -/
  | writeOk (addr value : Byte)
  /-- `W[addr value] -> Fail` -/
  | writeFail (addr value : Byte)
  /-- `WR[addr],6 -> Ok[b0 .. b5]` -/
  | readOk (addr : Byte) (data : Frame)
  /-- `WR[addr],6 -> Fail` -/
  | readFail (addr : Byte)
  deriving DecidableEq, Repr

/-- An entry of the event trace as R33 writes it: finished, or the last one still pending. -/
inductive TraceEntry where
  | done (e : Event)
  | pending (t : Txn)
  deriving DecidableEq, Repr

/-- A word on the model's own primitive port (log entry 4): an encoded register primitive, in one of the
three formats in which the Block sends one. -/
inductive PrimWord where
  | busW2 (w : BitVec 16)
  | busSel1 (w : BitVec 8)
  | txq (w : TxqWord)
  deriving DecidableEq, Repr

/-- What the Host and the Transport drive at one edge of `CLK`. An absent word is its VALID signal at 0. -/
structure Pins where
  /-- `RST` (R220). -/
  rst : Bool := false
  /-- `CMD_VALID` and `CMD[41:0]` (R80). -/
  cmd : Option CmdWord := none
  /-- `RSP_READY` (R85). -/
  rspReady : Bool := false
  /-- `TXQ_READY` (R88). -/
  txqReady : Bool := false
  /-- `TXA_VALID` and `TXA[48:0]` (R89). -/
  txa : Option TxaWord := none
  /-- The primitive port (log entry 4). -/
  prim : Option PrimWord := none
  deriving DecidableEq, Repr

/-- The whole machine. -/
structure State where
  /-- `DS` (R21). -/
  ds : DriverState
  /-- `PH` (R22). -/
  ph : Phase
  /-- `CMDR`, 42 bits (R25); absent is R20's "no value". -/
  cmdr : Option CmdWord
  /-- `FRAME[0..5]` (R23); absent is R20's "no value". -/
  frame : Option Frame
  /-- `RSP_VALID` (R20). -/
  rspValid : Bool
  /-- `RSPR` (R26); absent is R20's "no value". -/
  rspr : Option Response
  /-- The bus transaction requested and not yet answered (R32 (d)). -/
  inFlight : Option Txn
  /-- `TXQ_VALID` (R88, R220): the request of the transaction in flight has not been transferred yet. -/
  txqValid : Bool
  /-- The finished entries of the event trace, oldest first (R33). -/
  trace : List Event
  /-- The responses the Host has taken since reset, oldest first (the model's own record, log entry 5). -/
  delivered : List Response
  /-- `OFF_X`, `OFF_Y`, `OFF_Z`: constants of the instance (R27). -/
  offsets : Config.Offsets
  /-- What the environment drives at the coming edge. -/
  pins : Pins
  /-- What the environment drives at the edges after it; where the list ends it drives nothing. -/
  inputs : List Pins
  deriving DecidableEq, Repr

/-- An element of R20 that a step reads. -/
inductive Element where
  | cmdr
  | rspr
  deriving DecidableEq, Repr

/-- The reasons the machine stops with a fault. -/
inductive Fault where
  /-- A step reads an element of R20 that has no value: "a read of an absent element is a model fault,
  never a zero" (R20; U16 of spec/93_implementation_defined.md). Raised by the step in phase ANG (`CMDR`)
  and by DELIVER (`RSPR`). SAFE: it stops, and no run from reset reaches it. -/
  | absentRead (e : Element)
  deriving DecidableEq, Repr

/-- The reasons a step has no meaning. Each is SAFE: the machine stops where the spec has no step. -/
inductive Refusal where
  /-- The instruction has no meaning yet. Raised by no arm of `exec`. -/
  | notModelled (mnemonic : String)
  /-- INIT with `DS` = Ready: "a Host contract violation to which the spec gives no meaning" (R117). Raised
  by the meaning of INIT. -/
  | initWhenReady
  /-- A command while another is in progress: "There is no step for: a command while `PH` is not IDLE"
  (R120). Raised by the meanings of the commands in a phase of another; no step of the machine
  raises it in a run, because the channel holds the command back. -/
  | commandWhileBusy
  /-- A frame or a transport request out of its turn: the Block requests a transaction only when no other
  is in flight (R61). Raised by the meanings of the frames and requests outside their phases. -/
  | transactionWhileBusy
  /-- A data frame that no read asked for: "There is no step for: ... an answer when `PH` is not INITk or
  RD" (R120). Raised by the meaning of READ.data outside phase RD. -/
  | answerWithoutRequest
  /-- `RST` while a command is in progress: "the spec gives such a run no meaning" (R223). Raised by the
  step. -/
  | resetWhileBusy
  /-- A word on the primitive port that is no transport request of R88. Raised by the step. -/
  | illegalRequest (r : DecodeReject)
  deriving DecidableEq, Repr

/-- The state right after reset (R34, R220): `DS` Uninitialized, `PH` IDLE, `RSP_VALID` 0; `CMDR`, `FRAME`
and `RSPR` without a value; `TXQ_VALID` 0; an empty event trace; the default offsets (R6); nothing driven. -/
def State.reset : State where
  ds := .uninitialized
  ph := .idle
  cmdr := none
  frame := none
  rspValid := false
  rspr := none
  inFlight := none
  txqValid := false
  trace := []
  delivered := []
  offsets := {}
  pins := {}
  inputs := []

end Sys2Proof.Machine
end

