-- ==== Sys2Proof/Machine/Flags.lean ====
section
/-! DEFINITION. The Block has no status flags (spec/10_state.md R28). The two comparisons it makes are here:
each is evaluated and consumed inside one micro-operation and stored nowhere. -/

namespace Sys2Proof.Machine

/-- `abs(t) < 5`, the strict comparison of the zero-snap (R153). -/
def belowSnap (t : Int) : Bool := decide ((t.natAbs : Int) < Config.snapMg)

/-- `z = 0` and `a = 0`, the comparisons of the angle calculator (R171). -/
def isZero (c : Comp) : Bool := decide (c = 0)

end Sys2Proof.Machine
end

