-- ==== Sys2Proof/Machine/Operands.lean ====
section
/-! DEFINITION. The bit fields and byte orders of the channels (spec/30_encoding.md R83, R85 to R89): signed
fields, transport answers, response words, transport request words. -/

namespace Sys2Proof.Machine

/-- `tc_N(i)` (R8): the N-bit two's-complement vector of an integer in range. -/
def tc (n : Nat) (i : Int) : BitVec n := BitVec.ofInt n i

/-- `sext_20` of an operand field (R83): the component in milli-G. -/
def compValue (c : Comp) : Int := c.toInt

/-- `ok`, bit 48 of a transport answer (R89). -/
def txaOk (w : TxaWord) : Bool := w.getLsbD 48

/-- The six bytes of a transport answer: byte i in bits 8i+7 : 8i (R89). -/
def txaFrame (w : TxaWord) : Frame :=
  ⟨w.extractLsb' 0 8, w.extractLsb' 8 8, w.extractLsb' 16 8, w.extractLsb' 24 8,
    w.extractLsb' 32 8, w.extractLsb' 40 8⟩

/-- The data frame a transport answer carries, if it is answered Ok (R89). -/
def txaData (w : Option TxaWord) : Option Frame :=
  match w with
  | none => none
  | some w => if txaOk w then some (txaFrame w) else none

/-- The answer word of a read answered Ok with these bytes (R89). -/
def txaOfFrame (f : Frame) : TxaWord :=
  1#1 ++ (f.b5 ++ (f.b4 ++ (f.b3 ++ (f.b2 ++ (f.b1 ++ f.b0)))))

/-- Payload of INIT answered OK: all 0 (R87). -/
def initPayload : Payload := 0

/-- Payload of READ answered OK: X in 59:40, Y in 39:20, Z in 19:0 (R87). -/
def samplePayload (x y z : Int) : Payload := tc 20 x ++ (tc 20 y ++ tc 20 z)

/-- Payload of TILT and AWE answered OK: bits 17:0 the angle, bits 59:18 all 0 (R87). -/
def anglePayload (m : Int) : Payload := (tc 18 m).setWidth 60

/-- Codes of the error statuses (R86). -/
def errorCode : Error → BitVec 2
  | .transportError => 0b01
  | .notInitialized => 0b10
  | .invalidRegisterValue => 0b11

/-- `status`, bits 61:60 of the response word (R85, R86). -/
def statusCode : Response → BitVec 2
  | .ok _ => 0b00
  | .error e => errorCode e

/-- The response word (R85); the payload of an error has no value (R87), so its word has none either. -/
def responseWord : Response → Option RspWord
  | .ok p => some (0b00#2 ++ p)
  | .error _ => none

/-- The request word of a transaction (R88). -/
def requestWord : Txn → TxqWord
  | .write addr value => txqRequest 0 0 addr value
  | .writeThenRead addr => txqRequest 1 6 addr 0
where
  txqRequest (kind : BitVec 1) (rlen : BitVec 3) (w0 w1 : Byte) : TxqWord :=
    kind ++ (rlen ++ (w0 ++ w1))

/-! ## The spelling of transactions and responses in test programs (R33, R95) -/

/-- One hexadecimal digit. -/
def hexDigit (d : BitVec 4) : String := String.singleton (Nat.digitChar d.toNat).toUpper

/-- A byte as R95 writes it: two hexadecimal digits, no sign of the base. -/
def hexByte (b : Byte) : String := hexDigit (b.extractLsb' 4 4) ++ hexDigit (b.extractLsb' 0 4)

/-- A transaction (R33). -/
def txnText : Txn → String
  | .write addr value => "W[" ++ hexByte addr ++ " " ++ hexByte value ++ "]"
  | .writeThenRead addr => "WR[" ++ hexByte addr ++ "],6"

/-- The bytes of an answer, in order of reception (R33). -/
def frameText (f : Frame) : String :=
  "[" ++ hexByte f.b0 ++ " " ++ hexByte f.b1 ++ " " ++ hexByte f.b2 ++ " " ++ hexByte f.b3 ++ " " ++
    hexByte f.b4 ++ " " ++ hexByte f.b5 ++ "]"

/-- An entry of the event trace (R33). -/
def traceText : TraceEntry → String
  | .done (.writeOk addr value) => txnText (.write addr value) ++ " -> Ok"
  | .done (.writeFail addr value) => txnText (.write addr value) ++ " -> Fail"
  | .done (.readOk addr data) => txnText (.writeThenRead addr) ++ " -> Ok" ++ frameText data
  | .done (.readFail addr) => txnText (.writeThenRead addr) ++ " -> Fail"
  | .pending t => txnText t ++ " -> pending"

/-- The name of an error (R190). -/
def errorName : Error → String
  | .transportError => "TransportError"
  | .notInitialized => "NotInitialized"
  | .invalidRegisterValue => "InvalidRegisterValue"

/-- A signed decimal field of a payload. -/
def fieldText (p : Payload) (lo width : Nat) : String := toString (p.extractLsb' lo width).toInt

/-- A response as R95 writes it, to a command with this opcode: INIT, READ, or one of the angle commands. -/
def responseText (op : BitVec 2) : Response → String
  | .error e => "=> " ++ errorName e
  | .ok p =>
    if op = 0b00 then "=> OK"
    else if op = 0b01 then
      "=> OK x=" ++ fieldText p 40 20 ++ " y=" ++ fieldText p 20 20 ++ " z=" ++ fieldText p 0 20
    else "=> OK m=" ++ fieldText p 0 18

end Sys2Proof.Machine
end

