-- ==== Sys2Proof/Machine/Ops.lean ====
section
/-! DEFINITION. The shared operations: updates of the state, `respond` (spec/40_driver_sequencer.md R110),
error entry `raise` (spec/60_exceptions.md R195) and the return from it (R196, DELIVER of R120), the bus
transactions, the two register primitives REGWR (R111) and REGRD (R112), reset (R220). -/

namespace Sys2Proof.Machine

/-- What the machine answers. -/
abbrev Result := Host.Outcome State Fault Refusal

/-- Apply `g` to the next state, if there is one. -/
def onNext (g : State → State) : Result → Result
  | .next s => .next (g s)
  | .fault r => .fault r
  | .refused r => .refused r

/-- `CMDR <- c`. -/
def latch (c : CmdWord) (s : State) : State := { s with cmdr := some c }

/-- `PH <- p`. -/
def setPhase (p : Phase) (s : State) : State := { s with ph := p }

/-- `DS <- Ready`. -/
def setReady (s : State) : State := { s with ds := .ready }

/-- `FRAME[0..5] <- f`, all six bytes at once (R23). -/
def loadFrame (f : Frame) (s : State) : State := { s with frame := some f }

/-- "request T" of R120: the transaction is in flight, and its request is on the channel (R88). -/
def request (t : Txn) (s : State) : State := { s with inFlight := some t, txqValid := true }

/-- A request on the channel is transferred when `TXQ_VALID` and `TXQ_READY` are both 1 (R88); from then on
the Block waits for its answer. -/
def transferRequest (s : State) : State := { s with txqValid := s.txqValid && !s.pins.txqReady }

/-- The answer to the transaction in flight: its entry of the event trace is finished (R120). -/
def record (e : Event) (s : State) : State :=
  { s with trace := s.trace ++ [e], inFlight := none, txqValid := false }

/-- `respond(OK, payload)` (R110). -/
def respond (p : Payload) (s : State) : State :=
  { s with rspr := some (.ok p), rspValid := true, ph := .resp }

/-- `raise e` (R195): taking an error. -/
def raise (e : Error) (s : State) : State :=
  { s with frame := none, rspr := some (.error e), rspValid := true, ph := .resp }

/-- DELIVER (R120, R196): the Host takes the response; the command is over and `FRAME` has no value again
(R23; log entry 3). `RSPR` keeps its value (log entry 10). -/
def deliver (r : Response) (s : State) : State :=
  { s with rspValid := false, ph := .idle, frame := none, delivered := s.delivered ++ [r] }

/-- The reset event (R220, R222): every element takes its reset value; the parameters and the
environment's inputs are not touched. -/
def takeReset (s : State) : State :=
  { State.reset with offsets := s.offsets, pins := s.pins, inputs := s.inputs }

/-- The edge is over: the environment drives its next values. -/
def nextEdge (s : State) : State :=
  { s with pins := s.inputs.headD {}, inputs := s.inputs.tail }

/-! ## Register primitives -/

/-- The answer the Block takes at this edge to the request it has made: none before the request is
transferred, since an answer follows its request (R89; log entry 8). -/
def transportAnswer (s : State) : Option TxaWord := if s.txqValid then none else s.pins.txa

/-- How a primitive goes on: it returns a value, raises an error, or blocks because the Transport has not
answered (R206: no status, no change). -/
inductive Reply (α : Type) where
  | returned (v : α) (s : State)
  | raised (e : Error) (s : State)
  | blocked

/-- `addr` or `value` fits in 8 bits (R50, R111). -/
def fitsByte (i : Int) : Bool := decide (0 ≤ i ∧ i ≤ 255)

/-- REGWR(addr, value) (R111), over unbounded integers as written there; `ans` is the Transport's answer. -/
def regwr (addr value : Int) (ans : Option TxaWord) (s : State) : Reply Unit :=
  if fitsByte addr && fitsByte value then
    let a : Byte := tc 8 addr
    let v : Byte := tc 8 value
    match ans with
    | none => .blocked
    | some w =>
      if txaOk w then .returned () (record (.writeOk a v) s)
      else .raised .transportError (record (.writeFail a v) s)
  else .raised .invalidRegisterValue s

/-- REGRD(addr, 6) (R112); the transport channel carries no other length. `ans` is the Transport's answer. -/
def regrd (addr : Int) (ans : Option TxaWord) (s : State) : Reply Frame :=
  if fitsByte addr then
    let a : Byte := tc 8 addr
    match ans with
    | none => .blocked
    | some w =>
      if txaOk w then .returned (txaFrame w) (record (.readOk a (txaFrame w)) s)
      else .raised .transportError (record (.readFail a) s)
  else .raised .invalidRegisterValue s

/-- A primitive that is called: `k` is what its caller does with the value it returns, `waiting` the state
while it blocks. -/
def callPrim {α : Type} (r : Reply α) (k : α → State → State) (waiting : State) : Result :=
  match r with
  | .returned v s' => .next (k v s')
  | .raised e s' => .next (raise e s')
  | .blocked => .next waiting

/-! ## What the Block drives -/

/-- `CMD_READY` (R80). -/
def cmdReady (s : State) : Bool := decide (s.ph = .idle)

/-- `TXQ_VALID` and `TXQ[19:0]` (R88): shown until the request is transferred. -/
def txqBus (s : State) : Option TxqWord := if s.txqValid then s.inFlight.map requestWord else none

/-- `TXA_READY` (R89): 1 when a request of INIT or READ has been transferred and is not answered yet. DESIGN
CHOICE (log entries 8 and 16): a primitive on the model's own port takes its answer in IDLE although
this is 0 there. -/
def txaReady (s : State) : Bool :=
  match s.ph with
  | .init _ => !s.txqValid
  | .rd => !s.txqValid
  | .idle => false
  | .ang => false
  | .resp => false

/-- `RSP[61:0]`, which shows `RSPR` (R85), while `RSP_VALID` is 1. -/
def rspBus (s : State) : Option Response := if s.rspValid then s.rspr else none

/-- The event trace as R33 writes it. -/
def eventTrace (s : State) : List TraceEntry :=
  s.trace.map .done ++ (s.inFlight.map .pending).toList

end Sys2Proof.Machine
end

