-- ==== Sys2Proof/Machine/Angle.lean ====
section
/-! DEFINITION. The angle calculator AC (spec/43_angle.md): ANGLE (R171) and the commands TILT (R176) and
AWE (R177). -/

namespace Sys2Proof.Machine

/-- ANGLE(a, z) in milli-degrees (R171); `z = 0` is tested first. -/
def angle (a z : Comp) : Int :=
  if isZero z then 90000
  else if isZero a then 0
  else (Config.atanMdeg a z).toInt

/-- Steps of an angle command (R119, R120): ACCEPT-ANGLE in IDLE, ANGLE-DONE in ANG. -/
def angleCommand (op : BitVec 2) (a z : Comp) (s : State) : Result :=
  match s.ph with
  | .idle => .next (setPhase .ang (latch (cmdWordA op a z) s))
  | .ang => .next (respond (anglePayload (angle a z)) s)
  | .init _ => .refused .commandWhileBusy
  | .rd => .refused .commandWhileBusy
  | .resp => .refused .commandWhileBusy

/-- TILT a, z (R176). -/
def execTilt (a z : Comp) (s : State) : Result := angleCommand 0b10 a z s

/-- AWE a, z (R177): the same function of its operands. -/
def execAwe (a z : Comp) (s : State) : Result := angleCommand 0b11 a z s

end Sys2Proof.Machine
end

