-- ==== Sys2Proof/Machine/Converter.lean ====
section
/-! DEFINITION. The frame decoder FD (spec/41_frame_decoder.md) and the LSB-to-G converter CV
(spec/42_converter.md). Both are combinational. -/

namespace Sys2Proof.Machine

/-- Three integers, one per axis. -/
structure Axes where
  x : Int
  y : Int
  z : Int
  deriving DecidableEq, Repr

/-- `sext_16({high, low})` (R140, R142). -/
def rawValue (low high : Byte) : Int := (high ++ low).toInt

/-- DECODE (R140): three little-endian signed 16-bit integers, in the order x, y, z. -/
def decodeFrame (f : Frame) : Axes :=
  ⟨rawValue f.b0 f.b1, rawValue f.b2 f.b3, rawValue f.b4 f.b5⟩

/-- SCALE (R151). -/
def scale (r : Int) : Int := Config.factorMg * r

/-- OFFSET (R152). -/
def addOffset (s off : Int) : Int := s + off

/-- SNAP (R153). -/
def snap (t : Int) : Int := if belowSnap t then 0 else t

/-- CONVERT (R154). -/
def convert (r off : Int) : Int := snap (addOffset (scale r) off)

/-- SAMPLE (R156): each axis converted with its own offset. -/
def sample (o : Config.Offsets) (f : Frame) : Axes :=
  let raw := decodeFrame f
  ⟨convert raw.x o.offX.toInt, convert raw.y o.offY.toInt, convert raw.z o.offZ.toInt⟩

end Sys2Proof.Machine
end

