-- ==== Sys2Proof/Machine/Driver.lean ====
section
/-! DEFINITION. The driver sequencer SQ (spec/40_driver_sequencer.md): the commands INIT (R113) and READ
(R114). Each meaning holds the command's steps of R120 in every phase the command goes through. -/

namespace Sys2Proof.Machine

/-- The transaction of write `k`+1 of `INIT_SEQ` (R91). -/
def initTxn (k : Fin 4) : Txn := .write (Config.initSeq k).1 (Config.initSeq k).2

/-- Write `k`+1 of INIT is requested: `PH <- INITk` (R113, R120). -/
def startInitWrite (k : Fin 4) (s : State) : State := setPhase (.init k) (request (initTxn k) s)

/-- What INIT does when write `k`+1 is answered Ok: INIT-OK-k (R120). -/
def afterInitWrite (k : Fin 4) (s : State) : State :=
  match k with
  | 0 => startInitWrite 1 s
  | 1 => startInitWrite 2 s
  | 2 => startInitWrite 3 s
  | 3 => respond initPayload (setReady s)

/-- REGWR of write `k`+1 inside INIT: INIT-OK-k, INIT-FAIL-k, or the wait (R113, R120). -/
def initWriteStep (k : Fin 4) (s : State) : Result :=
  callPrim (regwr (Config.initSeq k).1.toNat (Config.initSeq k).2.toNat (transportAnswer s) s)
    (fun _ s' => afterInitWrite k s') (transferRequest s)

/-- Rest of READ after its data: `FRAME <- data`, DECODE, CONVERT, respond (R114). -/
def finishRead (f : Frame) (s : State) : State :=
  let v := sample s.offsets f
  respond (samplePayload v.x v.y v.z) (loadFrame f s)

/-- REGRD(0x32, 6) inside READ: READ-OK, READ-FAIL, or the wait (R114, R120). -/
def readStep (s : State) : Result :=
  callPrim (regrd Config.dataBase.toNat (transportAnswer s) s) finishRead (transferRequest s)

/-- INIT (R113). IDLE: ACCEPT-INIT, or refused when Ready (R117). INITk: the answer to write k+1. -/
def execInit (pad : BitVec 40) (s : State) : Result :=
  match s.ph with
  | .idle =>
    match s.ds with
    | .uninitialized => .next (startInitWrite 0 (latch (cmdWordC 0b00 pad) s))
    | .ready => .refused .initWhenReady
  | .init k => initWriteStep k s
  | .rd => .refused .commandWhileBusy
  | .ang => .refused .commandWhileBusy
  | .resp => .refused .commandWhileBusy

/-- READ (R114). IDLE: ACCEPT-READ-U, ACCEPT-READ-R. RD: the answer to the read. -/
def execRead (pad : BitVec 40) (s : State) : Result :=
  match s.ph with
  | .idle =>
    match s.ds with
    | .uninitialized => .next (raise .notInitialized (latch (cmdWordC 0b01 pad) s))
    | .ready =>
      .next (setPhase .rd (request (.writeThenRead Config.dataBase) (latch (cmdWordC 0b01 pad) s)))
  | .init _ => .refused .commandWhileBusy
  | .rd => readStep s
  | .ang => .refused .commandWhileBusy
  | .resp => .refused .commandWhileBusy

end Sys2Proof.Machine
end

