-- ==== Sys2Proof/Machine/Bus.lean ====
section
/-! DEFINITION. The bus frames and the transport requests (spec/30_encoding.md R88 to R92). In the phase in
which the Block sends it, a frame is that phase's step of R120. In IDLE it is a register primitive
exposed on the model's own port (R111, R112, R194; log entry 4). DESIGN CHOICE (log entry 16): there the
primitive is a call of the Transport and not a use of its channels: no request appears on `TXQ`, and
the answer is taken although `TXA_READY` is 0. -/

namespace Sys2Proof.Machine

/-- A register write primitive called on its own (R111), past the channels (log entry 16). -/
def exposedWrite (addr value : Byte) (s : State) : Result :=
  match s.ph with
  | .idle => callPrim (regwr addr.toNat value.toNat s.pins.txa s) (fun _ s' => s') s
  | .init _ => .refused .transactionWhileBusy
  | .rd => .refused .transactionWhileBusy
  | .ang => .refused .transactionWhileBusy
  | .resp => .refused .transactionWhileBusy

/-- A register read primitive called on its own (R112), past the channels (log entry 16); the bytes it
returns stand in the event trace. -/
def exposedRead (addr : Byte) (s : State) : Result :=
  match s.ph with
  | .idle => callPrim (regrd addr.toNat s.pins.txa s) (fun _ s' => s') s
  | .init _ => .refused .transactionWhileBusy
  | .rd => .refused .transactionWhileBusy
  | .ang => .refused .transactionWhileBusy
  | .resp => .refused .transactionWhileBusy

/-- Write frame `k`+1 of `INIT_SEQ`: INIT's own write in INITk (R113), the primitive elsewhere. -/
def initFrame (k : Fin 4) (s : State) : Result :=
  if s.ph = .init k then initWriteStep k s
  else exposedWrite (Config.initSeq k).1 (Config.initSeq k).2 s

/-- REGWR.frame (R90, R111). -/
def execRegwrFrame (addr value : Byte) (s : State) : Result := exposedWrite addr value s

/-- INIT.write1 (R91, R113). -/
def execInitWrite1 (s : State) : Result := initFrame 0 s

/-- INIT.write2 (R91, R113). -/
def execInitWrite2 (s : State) : Result := initFrame 1 s

/-- INIT.write3 (R91, R113). -/
def execInitWrite3 (s : State) : Result := initFrame 2 s

/-- INIT.write4 (R91, R113). -/
def execInitWrite4 (s : State) : Result := initFrame 3 s

/-- REGRD.select (R92, R112). -/
def execRegrdSelect (addr : Byte) (s : State) : Result := exposedRead addr s

/-- READ.select (R92, R114): READ's own transaction in RD, the primitive elsewhere. -/
def execReadSelect (s : State) : Result :=
  if s.ph = .rd then readStep s else exposedRead Config.dataBase s

/-- READ.data (R92, R140): the data frame of the read in flight: READ-OK of R120. -/
def execReadData (f : Frame) (s : State) : Result :=
  match s.ph with
  | .rd => .next (finishRead f (record (.readOk Config.dataBase f) s))
  | .idle => .refused .answerWithoutRequest
  | .init _ => .refused .answerWithoutRequest
  | .ang => .refused .answerWithoutRequest
  | .resp => .refused .answerWithoutRequest

/-- TXQ.write (R88): `Transport.write([w0, w1])`, REGWR of R111. -/
def execTxqWrite (w0 w1 : Byte) (s : State) : Result := exposedWrite w0 w1 s

/-- TXQ.write_then_read (R88): `Transport.write_then_read([w0], 6)`, REGRD of R112. -/
def execTxqWriteThenRead (w0 : Byte) (s : State) : Result := exposedRead w0 s

end Sys2Proof.Machine
end

