-- ==== Sys2Proof/Machine/Dispatch.lean ====
section
/-! DEFINITION. One arm per constructor of `Instr`: the meaning of each row of spec/opcode_table.json. -/

namespace Sys2Proof.Machine

def exec (i : Instr) (s : State) : Host.Outcome State Fault Refusal :=
  match i with
  | .init pad => Sys2Proof.Machine.execInit pad s
  | .read pad => Sys2Proof.Machine.execRead pad s
  | .tilt a z => Sys2Proof.Machine.execTilt a z s
  | .awe a z => Sys2Proof.Machine.execAwe a z s
  | .regwrFrame addr value => Sys2Proof.Machine.execRegwrFrame addr value s
  | .initWrite1 => Sys2Proof.Machine.execInitWrite1 s
  | .initWrite2 => Sys2Proof.Machine.execInitWrite2 s
  | .initWrite3 => Sys2Proof.Machine.execInitWrite3 s
  | .initWrite4 => Sys2Proof.Machine.execInitWrite4 s
  | .regrdSelect addr => Sys2Proof.Machine.execRegrdSelect addr s
  | .readSelect => Sys2Proof.Machine.execReadSelect s
  | .readData f => Sys2Proof.Machine.execReadData f s
  | .txqWrite w0 w1 => Sys2Proof.Machine.execTxqWrite w0 w1 s
  | .txqWriteThenRead w0 => Sys2Proof.Machine.execTxqWriteThenRead w0 s

end Sys2Proof.Machine
end

