-- ==== Sys2Proof/Machine/Edge.lean ====
section
/-! DEFINITION. One edge of `CLK` (spec/70_reset_and_hazards.md R220, R234): which encoded word the Block
works on (its stand-in for an instruction fetch, spec/10_state.md R22), and what the edge does. -/

namespace Sys2Proof.Machine

/-- A word of the primitive port, with its format. -/
def primEncoded : PrimWord → Encoded
  | .busW2 w => .busW2 w
  | .busSel1 w => .busSel1 w
  | .txq w => .txq w

/-- The word of write `k`+1 of INIT (R91). -/
def initFrameWord (k : Fin 4) : BitVec 16 := writeFrameWord (Config.initSeq k).1 (Config.initSeq k).2

/-- The word the Block works on at this edge. IDLE: the command the Host presents (R80), else the word on
the primitive port. INITk: the write frame in flight (R91). RD: the data frame the Transport answers
the transferred request with, else the select frame in flight (R92). ANG: the command in `CMDR` (R176). RESP: none. -/
def fetchWord (s : State) : Option Encoded :=
  match s.ph with
  | .idle =>
    match s.pins.cmd with
    | some c => some (.cmd c)
    | none => s.pins.prim.map primEncoded
  | .init k => some (.busW2 (initFrameWord k))
  | .rd =>
    match txaData (transportAnswer s) with
    | some f => some (.busData6 (patternOfFrame f))
    | none => some (.busSel1 Config.dataBase)
  | .ang => s.cmdr.map .cmd
  | .resp => none

/-- The decoded word's meaning. -/
def runWord (w : Encoded) (s : State) : Result :=
  match decode w with
  | .ok i => exec i s
  | .error r => .refused (.illegalRequest r)

/-- RESP: DELIVER when `RSP_VALID` and `RSP_READY` are both 1 (R85, R120); else the response waits (R230). The
transfer reads `RSPR`; R20 calls a read of it without a value "a model fault, never a zero". -/
def respEdge (s : State) : Result :=
  if s.rspValid && s.pins.rspReady then
    match s.rspr with
    | some r => .next (deliver r s)
    | none => .fault (.absentRead .rspr)
  else .next s

/-- An edge at which the Block works on no word. In ANG that is an edge without a value in `CMDR`, whose read
(R176) R20 calls "a model fault, never a zero". -/
def quietEdge (s : State) : Result :=
  match s.ph with
  | .idle => .next s
  | .init _ => .next s
  | .rd => .next s
  | .ang => .fault (.absentRead .cmdr)
  | .resp => respEdge s

/-- `RST` is 1 at this edge (R220); not while a command is in progress (R223). -/
def resetEdge (s : State) : Result :=
  match s.ph with
  | .idle => .next (takeReset s)
  | .init _ => .refused .resetWhileBusy
  | .rd => .refused .resetWhileBusy
  | .ang => .refused .resetWhileBusy
  | .resp => .refused .resetWhileBusy

/-- What the Block does at one edge. -/
def edge (s : State) : Result :=
  if s.pins.rst then resetEdge s
  else
    match fetchWord s with
    | some w => runWord w s
    | none => quietEdge s

/-! ## Placing a word where the next edge works on it -/

/-- A command on the Host's channel, or a primitive on its port, with the Block in IDLE. -/
def presentAtIdle (cmd : Option CmdWord) (prim : Option PrimWord) (s : State) : State :=
  { s with ph := .idle, pins := { s.pins with rst := false, cmd := cmd, prim := prim } }

/-- Write `k`+1 of INIT in flight, its request transferred. -/
def presentInitFrame (k : Fin 4) (s : State) : State :=
  { startInitWrite k s with txqValid := false, pins := { s.pins with rst := false } }

/-- READ's transaction in flight, its request transferred, and what the Transport answers. -/
def presentRead (txa : Option TxaWord) (s : State) : State :=
  { s with ph := .rd, inFlight := some (.writeThenRead Config.dataBase), txqValid := false,
           pins := { s.pins with rst := false, txa := txa } }

/-- Place a word so that the next edge works on it (log entry 7). -/
def placeWord (w : Encoded) (s : State) : State :=
  match w with
  | .cmd c => presentAtIdle (some c) none s
  | .busW2 f =>
    if f = initFrameWord 0 then presentInitFrame 0 s
    else if f = initFrameWord 1 then presentInitFrame 1 s
    else if f = initFrameWord 2 then presentInitFrame 2 s
    else if f = initFrameWord 3 then presentInitFrame 3 s
    else presentAtIdle none (some (.busW2 f)) s
  | .busSel1 a =>
    if a = Config.dataBase then presentRead none s
    else presentAtIdle none (some (.busSel1 a)) s
  | .busData6 d => presentRead (some (txaOfFrame (frameOfPattern d))) s
  | .txq q => presentAtIdle none (some (.txq q)) s

/-- Place the word numbered as the opcode table numbers it; the state as it is if there is none. -/
def placeTableWord (nbits w : Nat) (s : State) : State :=
  match tableWord nbits w with
  | some e => placeWord e s
  | none => s

end Sys2Proof.Machine
end

