-- ==== Sys2Proof/Safety.lean ====
section
/-! DEFINITION. What claims about the machine are stated in: the phase table of spec/10_state.md R22, the
invariant of every run, what the environment does during a wait, and the reference angle of
spec/43_angle.md R179. -/

namespace Sys2Proof

open Machine

/-- The instruction whose frame is in flight in phase INITk (R91). -/
def initInstr : Fin 4 → Instr
  | 0 => .initWrite1
  | 1 => .initWrite2
  | 2 => .initWrite3
  | 3 => .initWrite4

/-- `W[addr value] -> Ok` for write `k`+1 of INIT (R116). -/
def initOkEvent (k : Fin 4) : Event := .writeOk (Config.initSeq k).1 (Config.initSeq k).2

/-- `W[addr value] -> Fail` for write `k`+1 of INIT (R116). -/
def initFailEvent (k : Fin 4) : Event := .writeFail (Config.initSeq k).1 (Config.initSeq k).2

/-- The first `n` entries a successful INIT leaves in the event trace (R116). -/
def initOkEvents (n : Nat) : List Event := (([0, 1, 2, 3] : List (Fin 4)).take n).map initOkEvent

/-- The columns "entered from" and "left to" of R22's table. -/
def phaseMove : Phase → Phase → Bool
  | .idle, .init k => k == 0
  | .idle, .rd => true
  | .idle, .ang => true
  | .idle, .resp => true
  | .idle, .idle => false
  | .init j, .init k => j.val + 1 == k.val
  | .init _, .resp => true
  | .init _, .idle => false
  | .init _, .rd => false
  | .init _, .ang => false
  | .rd, .resp => true
  | .rd, .idle => false
  | .rd, .init _ => false
  | .rd, .rd => false
  | .rd, .ang => false
  | .ang, .resp => true
  | .ang, .idle => false
  | .ang, .init _ => false
  | .ang, .rd => false
  | .ang, .ang => false
  | .resp, .idle => true
  | .resp, .init _ => false
  | .resp, .rd => false
  | .resp, .ang => false
  | .resp, .resp => false

/-- The transaction in flight in each phase (R22, R32 (d)). -/
def phaseTxn : Phase → Option Txn
  | .idle => none
  | .init k => some (initTxn k)
  | .rd => some (.writeThenRead Config.dataBase)
  | .ang => none
  | .resp => none

/-- The phase is one in which the Block waits for the Transport (R68). -/
def waitsForAnswer : Phase → Bool
  | .idle => false
  | .init _ => true
  | .rd => true
  | .ang => false
  | .resp => false

/-- The steps of R120, row by row: guard, then effect. `c` is the command word the Host presents, `w` the
Transport's answer, which is taken only after the request was transferred (R88, R89). An INIT with `DS` =
Ready has no row. DELIVER also makes the record of responses and, by R23, takes the value of `FRAME`, and
leaves that of `RSPR` (log entries 3, 5 and 10). -/
inductive TableStep (s : State) : State → Prop where
  /-- ACCEPT-INIT -/
  | acceptInit (c : CmdWord) (hp : s.ph = .idle) (hc : s.pins.cmd = some c)
      (ho : c.extractLsb' 40 2 = 0b00) (hd : s.ds = .uninitialized) :
      TableStep s { s with cmdr := some c, inFlight := some (.write 0x2C 0x0A),
                           txqValid := true, ph := .init 0 }
  /-- ACCEPT-READ-U -/
  | acceptReadU (c : CmdWord) (hp : s.ph = .idle) (hc : s.pins.cmd = some c)
      (ho : c.extractLsb' 40 2 = 0b01) (hd : s.ds = .uninitialized) :
      TableStep s { s with cmdr := some c, frame := none, rspr := some (.error .notInitialized),
                           rspValid := true, ph := .resp }
  /-- ACCEPT-READ-R -/
  | acceptReadR (c : CmdWord) (hp : s.ph = .idle) (hc : s.pins.cmd = some c)
      (ho : c.extractLsb' 40 2 = 0b01) (hd : s.ds = .ready) :
      TableStep s { s with cmdr := some c, inFlight := some (.writeThenRead 0x32),
                           txqValid := true, ph := .rd }
  /-- ACCEPT-ANGLE -/
  | acceptAngle (c : CmdWord) (hp : s.ph = .idle) (hc : s.pins.cmd = some c)
      (ho : c.extractLsb' 40 2 = 0b10 ∨ c.extractLsb' 40 2 = 0b11) :
      TableStep s { s with cmdr := some c, ph := .ang }
  /-- INIT-OK-0 -/
  | initOk0 (w : TxaWord) (hp : s.ph = .init 0) (hq : s.txqValid = false)
      (ht : s.pins.txa = some w) (hw : txaOk w = true) :
      TableStep s { s with trace := s.trace ++ [.writeOk 0x2C 0x0A],
                           inFlight := some (.write 0x2D 0x08), txqValid := true,
                           ph := .init 1 }
  /-- INIT-OK-1 -/
  | initOk1 (w : TxaWord) (hp : s.ph = .init 1) (hq : s.txqValid = false)
      (ht : s.pins.txa = some w) (hw : txaOk w = true) :
      TableStep s { s with trace := s.trace ++ [.writeOk 0x2D 0x08],
                           inFlight := some (.write 0x2E 0x00), txqValid := true,
                           ph := .init 2 }
  /-- INIT-OK-2 -/
  | initOk2 (w : TxaWord) (hp : s.ph = .init 2) (hq : s.txqValid = false)
      (ht : s.pins.txa = some w) (hw : txaOk w = true) :
      TableStep s { s with trace := s.trace ++ [.writeOk 0x2E 0x00],
                           inFlight := some (.write 0x31 0x00), txqValid := true,
                           ph := .init 3 }
  /-- INIT-OK-3 -/
  | initOk3 (w : TxaWord) (hp : s.ph = .init 3) (hq : s.txqValid = false)
      (ht : s.pins.txa = some w) (hw : txaOk w = true) :
      TableStep s { s with trace := s.trace ++ [.writeOk 0x31 0x00], inFlight := none,
                           txqValid := false, ds := .ready, rspr := some (.ok 0), rspValid := true, ph := .resp }
  /-- INIT-FAIL-k -/
  | initFail (k : Fin 4) (w : TxaWord) (hp : s.ph = .init k) (hq : s.txqValid = false)
      (ht : s.pins.txa = some w) (hw : txaOk w = false) :
      TableStep s { s with trace := s.trace ++ [initFailEvent k], inFlight := none,
                           txqValid := false, frame := none,
                           rspr := some (.error .transportError), rspValid := true, ph := .resp }
  /-- READ-OK -/
  | readOk (w : TxaWord) (hp : s.ph = .rd) (hq : s.txqValid = false) (ht : s.pins.txa = some w)
      (hw : txaOk w = true) :
      TableStep s { s with trace := s.trace ++ [.readOk 0x32 (txaFrame w)], inFlight := none,
                           txqValid := false, frame := some (txaFrame w),
                           rspr := some (.ok (samplePayload (sample s.offsets (txaFrame w)).x
                             (sample s.offsets (txaFrame w)).y (sample s.offsets (txaFrame w)).z)),
                           rspValid := true, ph := .resp }
  /-- READ-FAIL -/
  | readFail (w : TxaWord) (hp : s.ph = .rd) (hq : s.txqValid = false) (ht : s.pins.txa = some w)
      (hw : txaOk w = false) :
      TableStep s { s with trace := s.trace ++ [.readFail 0x32], inFlight := none,
                           txqValid := false, frame := none,
                           rspr := some (.error .transportError), rspValid := true, ph := .resp }
  /-- ANGLE-DONE -/
  | angleDone (c : CmdWord) (hp : s.ph = .ang) (hc : s.cmdr = some c)
      (ho : c.extractLsb' 40 2 = 0b10 ∨ c.extractLsb' 40 2 = 0b11) :
      TableStep s { s with rspr := some (.ok (anglePayload
                             (angle (c.extractLsb' 20 20) (c.extractLsb' 0 20)))),
                           rspValid := true, ph := .resp }
  /-- DELIVER -/
  | deliver (r : Response) (hp : s.ph = .resp) (hv : s.rspValid = true)
      (hr : s.pins.rspReady = true) (hs : s.rspr = some r) :
      TableStep s { s with rspValid := false, ph := .idle, frame := none,
                           delivered := s.delivered ++ [r] }

/-- What holds of the machine in every run. -/
structure Inv (s : State) : Prop where
  /-- `RSP_VALID` is 1 exactly in RESP (R22). -/
  rspValid_iff : s.rspValid = true ↔ s.ph = .resp
  /-- In RESP, `RSPR` holds the response (R22, R26). -/
  rspr_held : s.ph = .resp → s.rspr ≠ none
  /-- `FRAME` has a value at most until the response of its READ is taken (R23). -/
  frame_transient : s.frame ≠ none → s.ph = .resp
  /-- A transaction is in flight exactly in INITk and RD, and it is that phase's (R32 (d)). -/
  inFlight_eq : s.inFlight = phaseTxn s.ph
  /-- A request is on the channel only in INITk and RD (R88). -/
  txqValid_waits : s.txqValid = true → waitsForAnswer s.ph = true
  /-- In INITk the driver is Uninitialized, and exactly the k writes before have just been answered
  Ok (R61 (a), (b)). -/
  init_prefix : ∀ k, s.ph = .init k → s.ds = .uninitialized ∧ initOkEvents k.val <:+ s.trace
  /-- A read is in flight only when the driver is Ready (R114). -/
  rd_ready : s.ph = .rd → s.ds = .ready
  /-- Ready is entered only by a successful INIT (R21, R61 (c)). -/
  ready_configured : s.ds = .ready → initOkEvents 4 <:+: s.trace
  /-- In ANG, `CMDR` holds a TILT or an AWE (R22, R25). -/
  ang_command : s.ph = .ang → ∃ a z, s.cmdr = some (cmdWordA 0b10 a z) ∨ s.cmdr = some (cmdWordA 0b11 a z)
  /-- Status InvalidRegisterValue is never produced (R194). -/
  no_invalid : s.rspr ≠ some (.error .invalidRegisterValue)
  /-- Nor has it ever been delivered. -/
  no_invalid_delivered : Response.error .invalidRegisterValue ∉ s.delivered

/-- `n` steps, stopping at the first fault or refusal: `Host.Core.run` of this machine. -/
def runSteps : Nat → State → Result
  | 0, s => .next s
  | n + 1, s =>
    match step s with
    | .next t => runSteps n t
    | .fault r => .fault r
    | .refused r => .refused r

/-- What the trace gains when a transaction is answered `w` (R33, R89). -/
def answered (t : Txn) (w : TxaWord) : Event :=
  match t with
  | .write a v => if txaOk w then .writeOk a v else .writeFail a v
  | .writeThenRead a => if txaOk w then .readOk a (txaFrame w) else .readFail a

/-- The transaction of an instruction that the model's own port can carry (log entry 4). -/
def primTxn : Instr → Option Txn
  | .init _ => none
  | .read _ => none
  | .tilt _ _ => none
  | .awe _ _ => none
  | .regwrFrame a v => some (.write a v)
  | .initWrite1 => some (initTxn 0)
  | .initWrite2 => some (initTxn 1)
  | .initWrite3 => some (initTxn 2)
  | .initWrite4 => some (initTxn 3)
  | .regrdSelect a => some (.writeThenRead a)
  | .readSelect => some (.writeThenRead Config.dataBase)
  | .readData _ => none
  | .txqWrite a v => some (.write a v)
  | .txqWriteThenRead a => some (.writeThenRead a)

/-- An edge at which the Transport does not answer and `RST` is 0. -/
def Quiet (p : Pins) : Prop := p.rst = false ∧ p.txa = none

/-- An edge at which the Transport answers `w` and `RST` is 0. -/
def Answers (p : Pins) (w : TxaWord) : Prop := p.rst = false ∧ p.txa = some w

/-- An edge at which the Transport takes a request, or does not, and `RST` is 0. -/
def Takes (p : Pins) (ready : Bool) : Prop := p.rst = false ∧ p.txqReady = ready

/-- What the environment drives from a request to its answer: any number of edges at which the Transport
does not take the request, the edge at which it does, any number of quiet edges, then the answer. -/
structure Wait where
  held : List Pins
  taken : Pins
  quiet : List Pins
  answer : Pins
  word : TxaWord
  deriving DecidableEq, Repr

/-- The wait is one: each of its edges is what its field says. -/
def Wait.Ok (w : Wait) : Prop :=
  (∀ p ∈ w.held, Takes p false) ∧ Takes w.taken true ∧ (∀ p ∈ w.quiet, Quiet p) ∧
    Answers w.answer w.word

/-- The edges of several waits, one after the other. -/
def waitEdges : List Wait → List Pins
  | [] => []
  | w :: ws => w.held ++ w.taken :: (w.quiet ++ w.answer :: waitEdges ws)

/-- `ATAN_REF(a, z)` (R179): the integer nearest to 1000 * THETA, with -90000 replaced by -89999. A
mathematical function, no part of the machine. -/
noncomputable def atanRef (a z : ℤ) : ℤ :=
  if round (Config.thetaMdeg a z) = -90000 then -89999 else round (Config.thetaMdeg a z)

end Sys2Proof
end

