-- ==== Sys2Proof/Certificates/Slice0/Obligations.lean ====
section
/-! DEFINITION. The statements for the provers, in the order of OBLIGATIONS.json. -/

open Sys2Proof Sys2Proof.Machine

/-! ## Encodings -/

/-- Every well-formed instruction, with every operand at every value, decodes from its word
(R81 to R83, R88, R90 to R92). -/
def Obligations.DecodeInvertsEncode : Prop :=
  ∀ i : Instr, i.WellFormed → decode (encode i) = .ok i

/-- A word that decodes is the word of the instruction it decodes to, and that instruction is well formed:
no two words share a meaning. That a word shared by a generic and a specific row is the specific one's,
and that request words outside R88 decode to nothing, are the model's choices (log entries 14 and 15). -/
def Obligations.EncodeInvertsDecode : Prop :=
  ∀ (w : Encoded) (i : Instr), decode w = .ok i → encode i = w ∧ i.WellFormed

/-- R82 with its match and mask values, and R83's operand fields. -/
def Obligations.CommandOpcodeMap : Prop :=
  ∀ c : CmdWord,
    (c &&& 0x30000000000#42 = 0x00000000000#42 →
      decode (.cmd c) = .ok (.init (c.extractLsb' 0 40))) ∧
    (c &&& 0x30000000000#42 = 0x10000000000#42 →
      decode (.cmd c) = .ok (.read (c.extractLsb' 0 40))) ∧
    (c &&& 0x30000000000#42 = 0x20000000000#42 →
      decode (.cmd c) = .ok (.tilt (c.extractLsb' 20 20) (c.extractLsb' 0 20))) ∧
    (c &&& 0x30000000000#42 = 0x30000000000#42 →
      decode (.cmd c) = .ok (.awe (c.extractLsb' 20 20) (c.extractLsb' 0 20)))

/-- Words of the formats of spec/30_encoding.md, most of them written out there or in
spec/95_test_vectors.md, decode to what they stand for. That 0x2D08 and 0x32 are the specific rows, and
the three rejections, are the model's choices (log entries 14 and 15). -/
def Obligations.SpecWordsDecode : Prop :=
  decode (.cmd 0x00000000000) = .ok (.init 0) ∧
  decode (.cmd 0x10000000000) = .ok (.read 0) ∧
  decode (.cmd 0x200190000C8) = .ok (.tilt 400 200) ∧
  decode (.cmd 0x2FFE70FFF38) = .ok (.tilt (-400) (-200)) ∧
  decode (.cmd 0x3FFFF800000) = .ok (.awe (-8) 0) ∧
  decode (.busW2 0x2D08) = .ok .initWrite2 ∧
  decode (.busW2 0x2D09) = .ok (.regwrFrame 0x2D 0x09) ∧
  decode (.busSel1 0x32) = .ok .readSelect ∧
  decode (.busSel1 0x33) = .ok (.regrdSelect 0x33) ∧
  decode (.busData6 0x640000001900) = .ok (.readData ⟨0x64, 0, 0, 0, 0x19, 0⟩) ∧
  decode (.txq 0x02C0A) = .ok (.txqWrite 0x2C 0x0A) ∧
  decode (.txq 0xE3200) = .ok (.txqWriteThenRead 0x32) ∧
  decode (.txq 0x12C0A) = .error .writeWithReadLength ∧
  decode (.txq 0xF3200) = .error .readLengthNotSix ∧
  decode (.txq 0xE3201) = .error .readWithSecondByte

/-- R84: command words of format C that differ only in bits 39:0 are the same command: both answer alike
in every state, but for the word that `CMDR` keeps. -/
def Obligations.IgnoredCommandBits : Prop :=
  ∀ (p q : BitVec 40) (s : State) (c : CmdWord),
    onNext (latch c) (exec (.init p) s) = onNext (latch c) (exec (.init q) s) ∧
    onNext (latch c) (exec (.read p) s) = onNext (latch c) (exec (.read q) s)

/-! ## Steps -/

/-- A step runs the decoded instruction: at an edge without reset, the step is the meaning of the
instruction that the word at hand decodes to, after which the environment drives its next values. What an
edge is, is the model's choice (log entry 6). -/
def Obligations.StepRunsDecodedWord : Prop :=
  ∀ (s : State) (w : Encoded) (i : Instr),
    s.pins.rst = false → fetchWord s = some w → decode w = .ok i →
      step s = onNext nextEdge (exec i s)

/-- Which instruction each phase runs: the command presented in IDLE, the write frame in INITk, the data
frame or the select frame in RD, the command in `CMDR` in ANG (R80, R22, R91, R92, R176). That a phase runs
an instruction, that no data frame is taken before its request is transferred, and that an edge with
nothing presented answers a next state are the model's choices (log entries 17 and 18, 8, 20), and so is
that a command comes before a word on the port (log entry 4). -/
def Obligations.EachPhaseRunsItsWord : Prop :=
  ∀ s : State, s.pins.rst = false →
    (∀ c i, s.ph = .idle → s.pins.cmd = some c → decode (.cmd c) = .ok i →
      step s = onNext nextEdge (exec i s)) ∧
    (∀ k, s.ph = .init k → step s = onNext nextEdge (exec (initInstr k) s)) ∧
    (∀ f, s.ph = .rd → s.txqValid = false → txaData s.pins.txa = some f →
      step s = onNext nextEdge (exec (.readData f) s)) ∧
    (s.ph = .rd → s.txqValid = true ∨ txaData s.pins.txa = none →
      step s = onNext nextEdge (exec .readSelect s)) ∧
    (∀ c i, s.ph = .ang → s.cmdr = some c → decode (.cmd c) = .ok i →
      step s = onNext nextEdge (exec i s)) ∧
    (s.ph = .idle → s.pins.cmd = none → s.pins.prim = none → step s = .next (nextEdge s))

/-- Placing a word of the opcode table, which is the model's own loader (log entry 7), makes the very next step
run its instruction. -/
def Obligations.PlacedTableWordRuns : Prop :=
  ∀ (s : State) (nbits w : Nat) (i : Instr), decodeTableWord nbits w = some i →
    step (s.withFetchWord nbits w) = onNext nextEdge (exec i (s.withFetchWord nbits w))

/-- R206: while a transaction is not answered nothing changes, for any number of steps, but the environment and
`TXQ_VALID`, which falls when the Transport takes the request (R88); the run neither stops nor produces
a status. That a waiting edge answers a next state is the model's choice (log entry 20). -/
def Obligations.UnansweredTransactionHangs : Prop :=
  ∀ s : State, waitsForAnswer s.ph = true → Quiet s.pins → (∀ p ∈ s.inputs, Quiet p) →
    ∀ n, runSteps n s =
      .next { s with txqValid := s.txqValid && ((s.pins :: s.inputs).take n).all (fun p => !p.txqReady),
                     pins := ((s.pins :: s.inputs).drop n).headD {}, inputs := s.inputs.drop n }

/-- While the Block waits for the Transport, a request on the channel is transferred at the edge at which
`TXQ_VALID` and `TXQ_READY` are both 1, and never again; until then it stays and no answer is taken
(R88, R89). That an answer comes at a later edge than its request, and that a waiting edge answers a next
state, are the model's choices (log entries 8 and 20). -/
def Obligations.RequestIsTransferredOnce : Prop :=
  ∀ s : State, s.pins.rst = false → waitsForAnswer s.ph = true → s.txqValid = true →
    txqBus s = s.inFlight.map requestWord ∧ txaReady s = false ∧
    (s.pins.txqReady = true → step s = .next (nextEdge { s with txqValid := false })) ∧
    (s.pins.txqReady = false → step s = .next (nextEdge s)) ∧
    txqBus { s with txqValid := false } = none ∧ txaReady { s with txqValid := false } = true

/-- While the Block is not in IDLE a command the Host presents has no effect (R80, R227). -/
def Obligations.ChannelHoldsCommandBack : Prop :=
  ∀ (s : State) (c : Option CmdWord), s.ph ≠ .idle →
    step { s with pins := { s.pins with cmd := c } } = step s

/-- DELIVER: when `RSP_VALID` and `RSP_READY` are both 1 the Host takes the response; `RSP_VALID` becomes 0,
`PH` IDLE, and `FRAME` has no value again (R85, R120, R23); all else is unchanged. That `FRAME` loses its
value here, that `RSPR` keeps its, and the record of responses, are the model's choices (log entries 3,
10 and 5). -/
def Obligations.ResponseIsDelivered : Prop :=
  ∀ (s : State) (r : Response), s.pins.rst = false → s.ph = .resp → s.rspValid = true →
    s.pins.rspReady = true → s.rspr = some r →
      step s = .next (nextEdge { s with rspValid := false, ph := .idle, frame := none,
                                        delivered := s.delivered ++ [r] })

/-- Until the Host takes it the response is held unchanged and nothing else happens (R26, R230). That a waiting
edge answers a next state is the model's choice (log entry 20), and what an edge is too (log entry 6). -/
def Obligations.ResponseIsHeld : Prop :=
  ∀ s : State, s.pins.rst = false → s.ph = .resp → s.pins.rspReady = false →
    step s = .next (nextEdge s)

/-- The reset event in IDLE: every element of the Block takes its reset value, the offsets are not touched
(R220, R222, R34). -/
def Obligations.ResetInIdle : Prop :=
  ∀ s : State, s.pins.rst = true → s.ph = .idle →
    ∃ t, step s = .next t ∧ t.ds = .uninitialized ∧ t.ph = .idle ∧ t.rspValid = false ∧
      t.cmdr = none ∧ t.frame = none ∧ t.rspr = none ∧ t.inFlight = none ∧ t.txqValid = false ∧
      t.trace = [] ∧ txqBus t = none ∧ cmdReady t = true ∧ t.offsets = s.offsets

/-- R223: reset while a command is in progress has no meaning. -/
def Obligations.ResetWhileBusyIsRefused : Prop :=
  ∀ s : State, s.pins.rst = true → s.ph ≠ .idle → step s = .refused .resetWhileBusy

/-- The state after reset (R34, R20, R6). That the offsets stand in it is the model's choice (log entry 2). -/
def Obligations.ResetState : Prop :=
  State.reset.ds = .uninitialized ∧ State.reset.ph = .idle ∧ State.reset.rspValid = false ∧
  State.reset.cmdr = none ∧ State.reset.frame = none ∧ State.reset.rspr = none ∧
  eventTrace State.reset = [] ∧ State.reset.offsets = ⟨0, 0, 100⟩

/-! ## INIT -/

/-- ACCEPT-INIT (R113, R120). That the request is on the channel from the next edge (`TXQ_VALID` is 1), and
that `CMDR` keeps the ignored bits, are the model's choices (log entries 8 and 11). -/
def Obligations.InitIsAccepted : Prop :=
  ∀ (pad : BitVec 40) (s : State), s.ph = .idle → s.ds = .uninitialized →
    exec (.init pad) s =
      .next { s with cmdr := some (0b00#2 ++ pad), inFlight := some (.write 0x2C 0x0A), txqValid := true,
                     ph := .init 0 }

/-- INIT-OK-k for k = 0, 1, 2: the write is recorded, the next frame of R91 is requested, `PH` moves on;
all else is unchanged. That INIT and the write frame in flight both have this effect, and that the request
is on the channel from the next edge, are the model's choices (log entries 17 and 8). -/
def Obligations.InitGoesToNextWrite : Prop :=
  ∀ (pad : BitVec 40) (s : State) (w : TxaWord), s.txqValid = false → s.pins.txa = some w →
    txaOk w = true →
    (s.ph = .init 0 → exec (.init pad) s = exec .initWrite1 s ∧ exec .initWrite1 s =
      .next { s with trace := s.trace ++ [.writeOk 0x2C 0x0A], inFlight := some (.write 0x2D 0x08),
                     txqValid := true, ph := .init 1 }) ∧
    (s.ph = .init 1 → exec (.init pad) s = exec .initWrite2 s ∧ exec .initWrite2 s =
      .next { s with trace := s.trace ++ [.writeOk 0x2D 0x08], inFlight := some (.write 0x2E 0x00),
                     txqValid := true, ph := .init 2 }) ∧
    (s.ph = .init 2 → exec (.init pad) s = exec .initWrite3 s ∧ exec .initWrite3 s =
      .next { s with trace := s.trace ++ [.writeOk 0x2E 0x00], inFlight := some (.write 0x31 0x00),
                     txqValid := true, ph := .init 3 })

/-- INIT-OK-3: `DS <- Ready` and respond(OK, 0) (R113, R120). That INIT and the write frame both have this
effect is the model's choice (log entry 17). -/
def Obligations.InitCompletes : Prop :=
  ∀ (pad : BitVec 40) (s : State) (w : TxaWord), s.txqValid = false → s.pins.txa = some w →
    txaOk w = true → s.ph = .init 3 →
      exec (.init pad) s = exec .initWrite4 s ∧ exec .initWrite4 s =
        .next { s with trace := s.trace ++ [.writeOk 0x31 0x00], inFlight := none,
                       txqValid := false, ds := .ready, rspr := some (.ok 0), rspValid := true, ph := .resp }

/-- INIT-FAIL-k: the first write answered Fail ends INIT with TransportError; `DS` is unchanged (R113,
R191, R195). That INIT and the write frame both have this effect is the model's choice (log entry 17). -/
def Obligations.InitStopsAtFailedWrite : Prop :=
  ∀ (pad : BitVec 40) (s : State) (w : TxaWord) (k : Fin 4), s.txqValid = false →
    s.pins.txa = some w → txaOk w = false → s.ph = .init k →
      exec (.init pad) s = exec (initInstr k) s ∧ exec (initInstr k) s =
        .next { s with trace := s.trace ++ [initFailEvent k], inFlight := none,
                       txqValid := false, frame := none,
                       rspr := some (.error .transportError), rspValid := true, ph := .resp }

/-- R117 (a): INIT when Ready has no meaning. -/
def Obligations.InitWhenReadyIsRefused : Prop :=
  ∀ (pad : BitVec 40) (s : State), s.ph = .idle → s.ds = .ready →
    exec (.init pad) s = .refused .initWhenReady

/-- R116: a whole INIT, whatever the delays of the Transport. Answered Ok four times it appends exactly the
four entries of R91 in order, leaves `DS` Ready and responds OK. Answered Fail at write j it appends the
j-1 Ok entries and the failed one, leaves `DS` Uninitialized and responds TransportError. The number of
edges, that an answer comes at a later edge than its request, and that `CMDR` keeps the ignored bits, are
the model's choices (log entries 6, 8 and 11). -/
def Obligations.WholeInitRun : Prop :=
  ∀ (s : State) (pad : BitVec 40) (ws : List Wait) (rest : List Pins),
    s.ph = .idle → s.ds = .uninitialized → s.pins.rst = false →
    s.pins.cmd = some (0b00#2 ++ pad) → s.inputs = waitEdges ws ++ rest → (∀ w ∈ ws, w.Ok) →
    ((ws.map fun w => txaOk w.word) = [true, true, true, true] →
      runSteps ((waitEdges ws).length + 1) s =
        .next { s with cmdr := some (0b00#2 ++ pad), ds := .ready, ph := .resp, rspValid := true,
                       rspr := some (.ok 0), inFlight := none, txqValid := false,
                       trace := s.trace ++ [.writeOk 0x2C 0x0A, .writeOk 0x2D 0x08,
                                            .writeOk 0x2E 0x00, .writeOk 0x31 0x00],
                       pins := rest.headD {}, inputs := rest.tail }) ∧
    (∀ k : Fin 4, (ws.map fun w => txaOk w.word) = List.replicate k.val true ++ [false] →
      runSteps ((waitEdges ws).length + 1) s =
        .next { s with cmdr := some (0b00#2 ++ pad), ph := .resp, rspValid := true,
                       rspr := some (.error .transportError), inFlight := none, txqValid := false,
                       frame := none, trace := s.trace ++ initOkEvents k.val ++ [initFailEvent k],
                       pins := rest.headD {}, inputs := rest.tail })

/-! ## READ -/

/-- READ while Uninitialized answers NotInitialized and makes no bus transaction (R114, R192). That `CMDR` keeps
the ignored bits is the model's choice (log entry 11). -/
def Obligations.ReadBeforeInitFails : Prop :=
  ∀ (pad : BitVec 40) (s : State), s.ph = .idle → s.ds = .uninitialized →
    exec (.read pad) s =
      .next { s with cmdr := some (0b01#2 ++ pad), frame := none,
                     rspr := some (.error .notInitialized), rspValid := true, ph := .resp }

/-- ACCEPT-READ-R (R114, R120). That the request is on the channel from the next edge (`TXQ_VALID` is 1), and
that `CMDR` keeps the ignored bits, are the model's choices (log entries 8 and 11). -/
def Obligations.ReadIsAccepted : Prop :=
  ∀ (pad : BitVec 40) (s : State), s.ph = .idle → s.ds = .ready →
    exec (.read pad) s =
      .next { s with cmdr := some (0b01#2 ++ pad), inFlight := some (.writeThenRead 0x32), txqValid := true,
                     ph := .rd }

/-- READ-OK: the six bytes (byte i in bits 8i+7 : 8i of the answer) are loaded into `FRAME` and the sample,
each axis converted with its own offset, is the response (R89, R114, R156); all else is unchanged.
That READ, its select frame and its data frame all have this effect is the model's choice (log entries
17 and 18), and so is that `FRAME` still has its value while the response waits (log entry 3). -/
def Obligations.ReadReturnsSample : Prop :=
  ∀ (pad : BitVec 40) (s : State) (b0 b1 b2 b3 b4 b5 : Byte),
    s.ph = .rd → s.txqValid = false → s.pins.txa = some (1#1 ++ (b5 ++ (b4 ++ (b3 ++ (b2 ++ (b1 ++ b0)))))) →
      let x := convert (b1 ++ b0).toInt s.offsets.offX.toInt
      let y := convert (b3 ++ b2).toInt s.offsets.offY.toInt
      let z := convert (b5 ++ b4).toInt s.offsets.offZ.toInt
      exec (.read pad) s = exec (.readData ⟨b0, b1, b2, b3, b4, b5⟩) s ∧
      exec .readSelect s = exec (.readData ⟨b0, b1, b2, b3, b4, b5⟩) s ∧
      exec (.readData ⟨b0, b1, b2, b3, b4, b5⟩) s =
        .next { s with trace := s.trace ++ [.readOk 0x32 ⟨b0, b1, b2, b3, b4, b5⟩],
                       inFlight := none, txqValid := false, frame := some ⟨b0, b1, b2, b3, b4, b5⟩,
                       rspr := some (.ok (BitVec.ofInt 20 x ++ (BitVec.ofInt 20 y ++ BitVec.ofInt 20 z))),
                       rspValid := true, ph := .resp }

/-- READ-FAIL: TransportError, no sample, `DS` unchanged (R114, R191). That READ and its select frame both have
this effect is the model's choice (log entry 17). -/
def Obligations.FailedReadReportsTransportError : Prop :=
  ∀ (pad : BitVec 40) (s : State) (w : TxaWord), s.ph = .rd → s.txqValid = false →
    s.pins.txa = some w → txaOk w = false →
      exec (.read pad) s = exec .readSelect s ∧ exec .readSelect s =
        .next { s with trace := s.trace ++ [.readFail 0x32], inFlight := none,
                       txqValid := false, frame := none,
                       rspr := some (.error .transportError), rspValid := true, ph := .resp }

/-- A whole READ in Ready, whatever the delay of the Transport: exactly one transaction, then the sample or
TransportError; `DS` stays Ready (R114, R115). The number of edges, that an answer comes at a later edge than
its request, that `CMDR` keeps the ignored bits, and that `FRAME` still has its value while the response
waits, are the model's choices (log entries 6, 8, 11 and 3). -/
def Obligations.WholeReadRun : Prop :=
  ∀ (s : State) (pad : BitVec 40) (w : Wait) (rest : List Pins),
    s.ph = .idle → s.ds = .ready → s.pins.rst = false → s.pins.cmd = some (0b01#2 ++ pad) →
    s.inputs = waitEdges [w] ++ rest → w.Ok →
    (txaOk w.word = true →
      let v := sample s.offsets (txaFrame w.word)
      runSteps ((waitEdges [w]).length + 1) s =
        .next { s with cmdr := some (0b01#2 ++ pad), ph := .resp, rspValid := true,
                       rspr := some (.ok (samplePayload v.x v.y v.z)), inFlight := none,
                       txqValid := false, frame := some (txaFrame w.word),
                       trace := s.trace ++ [.readOk 0x32 (txaFrame w.word)],
                       pins := rest.headD {}, inputs := rest.tail }) ∧
    (txaOk w.word = false →
      runSteps ((waitEdges [w]).length + 1) s =
        .next { s with cmdr := some (0b01#2 ++ pad), ph := .resp, rspValid := true,
                       rspr := some (.error .transportError), inFlight := none, txqValid := false,
                       frame := none, trace := s.trace ++ [.readFail 0x32],
                       pins := rest.headD {}, inputs := rest.tail })

/-! ## TILT and AWE -/

/-- ACCEPT-ANGLE, in both driver states (R119, R120). -/
def Obligations.AngleCommandsAreAccepted : Prop :=
  ∀ (a z : Comp) (s : State), s.ph = .idle →
    exec (.tilt a z) s = .next { s with cmdr := some (0b10#2 ++ (a ++ z)), ph := .ang } ∧
    exec (.awe a z) s = .next { s with cmdr := some (0b11#2 ++ (a ++ z)), ph := .ang }

/-- ANGLE-DONE: TILT and AWE respond OK with the angle of their operands in bits 17:0 and 0 above; all else
is unchanged (R176, R177, R87). -/
def Obligations.AngleCommandsRespond : Prop :=
  ∀ (a z : Comp) (s : State), s.ph = .ang →
    exec (.tilt a z) s =
      .next { s with rspr := some (.ok ((BitVec.ofInt 18 (angle a z)).setWidth 60)), rspValid := true,
                     ph := .resp } ∧
    exec (.awe a z) s =
      .next { s with rspr := some (.ok ((BitVec.ofInt 18 (angle a z)).setWidth 60)), rspValid := true,
                     ph := .resp }

/-- R171, in its order: `z = 0` gives 90000 for every `a`; otherwise `a = 0` gives 0; otherwise the result is
`ATAN_MDEG`'s, of which nothing is known here but R173's contract (log entry 1). -/
def Obligations.AngleByCases : Prop :=
  (∀ a : Comp, angle a 0 = 90000) ∧ (∀ z : Comp, z ≠ 0 → angle 0 z = 0) ∧
    (∀ a z : Comp, a ≠ 0 → z ≠ 0 → angle a z = (Config.atanMdeg a z).toInt)

/-- R173: for non-zero operands the angle meets (P1) and (P2). It rests on the contract that R173 asks a
model to assume of `ATAN_MDEG` (log entry 1). -/
def Obligations.AngleWithinContract : Prop :=
  ∀ a z : Comp, a ≠ 0 → z ≠ 0 →
    |((angle a z : ℤ) : ℝ)
      - 1000 * (Real.arctan ((a.toInt : ℝ) / (z.toInt : ℝ)) * 360 / (2 * 3.14159265359))| < 1 ∧
    -90000 < angle a z ∧ angle a z ≤ 90000

/-- R178 (a), and that the 18-bit field loses nothing: read as a signed number it is the angle. -/
def Obligations.AngleFieldHoldsAngle : Prop :=
  ∀ a z : Comp, -89999 ≤ angle a z ∧ angle a z ≤ 90000 ∧
    ((anglePayload (angle a z)).extractLsb' 0 18).toInt = angle a z ∧
    (anglePayload (angle a z)).extractLsb' 18 42 = 0

/-- R178 (b) and the first half of (c): the sign of the angle is never opposite to the sign of `a` × `z`,
and where the exact angle is one unit or more the angle is not zero. -/
def Obligations.AngleSign : Prop :=
  ∀ a z : Comp, z ≠ 0 →
    (0 < a.toInt * z.toInt → 0 ≤ angle a z) ∧ (a.toInt * z.toInt < 0 → angle a z ≤ 0) ∧
    (a ≠ 0 → 1 ≤ |Config.thetaMdeg a.toInt z.toInt| → angle a z ≠ 0)

/-- R119: a whole angle command, in either driver state: `PH` goes to ANG and then the response is OK with the
angle; no bus transaction, `DS` as before. The number of edges is the model's choice (log entry 6). -/
def Obligations.WholeAngleRun : Prop :=
  ∀ (s : State) (op : BitVec 2) (a z : Comp) (p : Pins) (rest : List Pins),
    op = 0b10 ∨ op = 0b11 → s.ph = .idle → s.pins.rst = false →
    s.pins.cmd = some (op ++ (a ++ z)) → s.inputs = p :: rest → p.rst = false →
      (∃ u, runSteps 1 s = .next u ∧ u.ph = .ang) ∧
      runSteps 2 s =
        .next { s with cmdr := some (op ++ (a ++ z)), ph := .resp, rspValid := true,
                       rspr := some (.ok (anglePayload (angle a z))),
                       pins := rest.headD {}, inputs := rest.tail }

/-- R179: the reference instance satisfies the contract of R173. -/
def Obligations.ReferenceAngleIsAdmissible : Prop :=
  ∀ a z : ℤ, Config.Admissible a z (atanRef a z)

/-! ## Frame decoder and converter -/

/-- R140: each value is low + 256 * high, minus 65536 if bit 7 of the high byte is 1, in the order x, y, z. -/
def Obligations.DecodedValues : Prop :=
  ∀ f : Frame,
    (decodeFrame f).x = f.b0.toNat + 256 * f.b1.toNat - (if f.b1.getLsbD 7 then 65536 else 0) ∧
    (decodeFrame f).y = f.b2.toNat + 256 * f.b3.toNat - (if f.b3.getLsbD 7 then 65536 else 0) ∧
    (decodeFrame f).z = f.b4.toNat + 256 * f.b5.toNat - (if f.b5.getLsbD 7 then 65536 else 0)

/-- R141: DECODE is one-to-one onto the triples of 16-bit signed integers, with R141's inverse. -/
def Obligations.DecodeIsOneToOne : Prop :=
  (∀ f g : Frame, decodeFrame f = decodeFrame g → f = g) ∧
  (∀ x y z : Int, -32768 ≤ x → x ≤ 32767 → -32768 ≤ y → y ≤ 32767 → -32768 ≤ z → z ≤ 32767 →
    decodeFrame ⟨(BitVec.ofInt 16 x).extractLsb' 0 8, (BitVec.ofInt 16 x).extractLsb' 8 8,
      (BitVec.ofInt 16 y).extractLsb' 0 8, (BitVec.ofInt 16 y).extractLsb' 8 8,
      (BitVec.ofInt 16 z).extractLsb' 0 8, (BitVec.ofInt 16 z).extractLsb' 8 8⟩ = ⟨x, y, z⟩)

/-- R144: a byte of one pair has no effect on the value of another pair. -/
def Obligations.DecodedPairsAreIndependent : Prop :=
  ∀ f g : Frame,
    (f.b0 = g.b0 → f.b1 = g.b1 → (decodeFrame f).x = (decodeFrame g).x) ∧
    (f.b2 = g.b2 → f.b3 = g.b3 → (decodeFrame f).y = (decodeFrame g).y) ∧
    (f.b4 = g.b4 → f.b5 = g.b5 → (decodeFrame f).z = (decodeFrame g).z)

/-- R154: CONVERT in milli-G. -/
def Obligations.ConvertFormula : Prop :=
  ∀ r off : Int,
    (|4 * r + off| < 5 → convert r off = 0) ∧ (5 ≤ |4 * r + off| → convert r off = 4 * r + off)

/-- R155 with the ranges of R151 and R152, and R153's gap: no result of magnitude 1 to 4. -/
def Obligations.ConvertNeverOverflows : Prop :=
  ∀ r off : BitVec 16,
    -131072 ≤ scale r.toInt ∧ scale r.toInt ≤ 131068 ∧
    -163840 ≤ addOffset (scale r.toInt) off.toInt ∧ addOffset (scale r.toInt) off.toInt ≤ 163835 ∧
    -163840 ≤ convert r.toInt off.toInt ∧ convert r.toInt off.toInt ≤ 163835 ∧
    (convert r.toInt off.toInt = 0 ∨ 5 ≤ |convert r.toInt off.toInt|)

/-- R158: which raw values snap. -/
def Obligations.WhichRawValuesSnap : Prop :=
  (∀ r off : Int, belowSnap (addOffset (scale r) off) = true ↔ -5 < 4 * r + off ∧ 4 * r + off < 5) ∧
  (∀ r : Int, belowSnap (addOffset (scale r) 0) = true ↔ r = -1 ∨ r = 0 ∨ r = 1) ∧
  (∀ r : Int, belowSnap (addOffset (scale r) 100) = true ↔ r = -26 ∨ r = -25 ∨ r = -24) ∧
  (∀ r off : Int, |addOffset (scale r) off| = 5 → off % 2 = 1) ∧
  convert 1 1 = 5

/-- The three 20-bit fields of a READ's response, read as signed numbers, are the sample: nothing wraps
(R87, R155, R156). -/
def Obligations.SampleFieldsHoldSample : Prop :=
  ∀ (o : Config.Offsets) (f : Frame),
    let v := sample o f
    let p := samplePayload v.x v.y v.z
    (p.extractLsb' 40 20).toInt = v.x ∧ (p.extractLsb' 20 20).toInt = v.y ∧
      (p.extractLsb' 0 20).toInt = v.z

/-! ## Response word -/

/-- R86: the code of each status. -/
def Obligations.StatusCodes : Prop :=
  (∀ p : Payload, statusCode (.ok p) = 0b00) ∧
  statusCode (.error .transportError) = 0b01 ∧
  statusCode (.error .notInitialized) = 0b10 ∧
  statusCode (.error .invalidRegisterValue) = 0b11

/-- The response word (R85): the status in bits 61:60, the payload in bits 59:0. The payload of an error has no
value (R87), so its word has none either, and its status is its code. On the channel a response is shown
exactly while `RSP_VALID` is 1 and one is held. -/
def Obligations.ResponseWordLayout : Prop :=
  (∀ (r : Response) (w : RspWord), responseWord r = some w →
    w.extractLsb' 60 2 = statusCode r ∧ r = .ok (w.extractLsb' 0 60)) ∧
  (∀ p : Payload, ∃ w, responseWord (.ok p) = some w) ∧
  (∀ e : Error, responseWord (.error e) = none ∧ statusCode (.error e) ≠ 0b00) ∧
  (∀ (s : State) (r : Response), rspBus s = some r ↔ s.rspValid = true ∧ s.rspr = some r)

/-! ## Register primitives -/

/-- R111, R112, R194: an operand outside 0 to 255 raises InvalidRegisterValue before any bus activity. -/
def Obligations.RangeCheckComesFirst : Prop :=
  ∀ (addr value : Int) (ans : Option TxaWord) (s : State),
    (addr < 0 ∨ 255 < addr ∨ value < 0 ∨ 255 < value →
      regwr addr value ans s = .raised .invalidRegisterValue s) ∧
    (addr < 0 ∨ 255 < addr → regrd addr ans s = .raised .invalidRegisterValue s)

/-- The write frames and TXQ.write, in IDLE: REGWR of R111. Answered Ok, one entry of the trace and nothing
else; answered Fail, error entry (R195). The port is the model's own (log entries 4 and 16). -/
def Obligations.WriteFramesRunWritePrimitive : Prop :=
  ∀ (i : Instr) (a v : Byte) (s : State) (w : TxaWord),
    i = .regwrFrame a v ∨ i = .txqWrite a v ∨
      (∃ k : Fin 4, i = initInstr k ∧ a = (Config.initSeq k).1 ∧ v = (Config.initSeq k).2) →
    s.ph = .idle → s.pins.txa = some w →
    (txaOk w = true →
      exec i s = .next { s with trace := s.trace ++ [.writeOk a v], inFlight := none, txqValid := false }) ∧
    (txaOk w = false →
      exec i s = .next { s with trace := s.trace ++ [.writeFail a v], inFlight := none, txqValid := false,
                                frame := none, rspr := some (.error .transportError), rspValid := true, ph := .resp })

/-- The select frames and TXQ.write_then_read, in IDLE: REGRD of R112. The port is the model's own (log entries
4 and 16). -/
def Obligations.SelectFramesRunReadPrimitive : Prop :=
  ∀ (i : Instr) (a : Byte) (s : State) (w : TxaWord),
    i = .regrdSelect a ∨ i = .txqWriteThenRead a ∨ (i = .readSelect ∧ a = 0x32) →
    s.ph = .idle → s.pins.txa = some w →
    (txaOk w = true →
      exec i s = .next { s with trace := s.trace ++ [.readOk a (txaFrame w)], inFlight := none,
                                txqValid := false }) ∧
    (txaOk w = false →
      exec i s = .next { s with trace := s.trace ++ [.readFail a], inFlight := none, txqValid := false,
                                frame := none, rspr := some (.error .transportError), rspValid := true, ph := .resp })

/-- A frame or a transport request that is not answered leaves the state as it is (R206): in IDLE all of it,
in the phase of INIT or READ that sends it all but `TXQ_VALID`, which falls if the Transport takes the
request (R88). There a request not yet transferred is not answered either (log entry 8). The port of
IDLE is the model's own (log entries 4 and 16). That a frame and the command that sends it both have
their phase's wait as their effect is the model's choice (log entry 17), and so is that a waiting edge
answers a next state (log entry 20). -/
def Obligations.UnansweredFrameChangesNothing : Prop :=
  ∀ (s : State),
    (s.ph = .idle → s.pins.txa = none → ∀ a v : Byte,
      exec (.regwrFrame a v) s = .next s ∧ exec (.txqWrite a v) s = .next s ∧
      exec (.regrdSelect a) s = .next s ∧ exec (.txqWriteThenRead a) s = .next s ∧
      exec .readSelect s = .next s) ∧
    (∀ k, s.ph = .idle → s.pins.txa = none → exec (initInstr k) s = .next s) ∧
    (∀ k, s.ph = .init k → s.txqValid = true ∨ s.pins.txa = none →
      exec (initInstr k) s = .next { s with txqValid := s.txqValid && !s.pins.txqReady }) ∧
    (∀ pad k, s.ph = .init k → s.txqValid = true ∨ s.pins.txa = none →
      exec (.init pad) s = .next { s with txqValid := s.txqValid && !s.pins.txqReady }) ∧
    (∀ pad, s.ph = .rd → s.txqValid = true ∨ s.pins.txa = none →
      exec (.read pad) s = exec .readSelect s ∧
      exec .readSelect s = .next { s with txqValid := s.txqValid && !s.pins.txqReady })

/-- Where the spec has no step (R120, R61): a command in a phase of another command, a frame or request out
of its turn, a data frame that no read asked for. Which instruction belongs to which phase is the model's
choice (log entry 17). -/
def Obligations.OutOfTurnIsRefused : Prop :=
  ∀ s : State,
    (∀ pad, s.ph = .rd ∨ s.ph = .ang ∨ s.ph = .resp →
      exec (.init pad) s = .refused .commandWhileBusy) ∧
    (∀ pad, s.ph ≠ .idle → s.ph ≠ .rd → exec (.read pad) s = .refused .commandWhileBusy) ∧
    (∀ a z, s.ph ≠ .idle → s.ph ≠ .ang →
      exec (.tilt a z) s = .refused .commandWhileBusy ∧
      exec (.awe a z) s = .refused .commandWhileBusy) ∧
    (∀ a v, s.ph ≠ .idle →
      exec (.regwrFrame a v) s = .refused .transactionWhileBusy ∧
      exec (.txqWrite a v) s = .refused .transactionWhileBusy ∧
      exec (.regrdSelect a) s = .refused .transactionWhileBusy ∧
      exec (.txqWriteThenRead a) s = .refused .transactionWhileBusy) ∧
    (∀ k, s.ph ≠ .idle → s.ph ≠ .init k → exec (initInstr k) s = .refused .transactionWhileBusy) ∧
    (s.ph ≠ .idle → s.ph ≠ .rd → exec .readSelect s = .refused .transactionWhileBusy) ∧
    (∀ f, s.ph ≠ .rd → exec (.readData f) s = .refused .answerWithoutRequest)

/-! ## The whole machine -/

/-- The invariant holds at reset. -/
def Obligations.ResetMeetsInvariant : Prop := Inv State.reset

/-- Every step keeps the invariant, from every state that meets it. Its clause that `FRAME` has a value in RESP
only rests on log entry 3, and its clause on the delivered responses on log entry 5. -/
def Obligations.StepKeepsInvariant : Prop :=
  ∀ s t : State, Inv s → step s = .next t → Inv t

/-- In a run no step reads an element without a value (R20), and a step has no meaning exactly where the spec
gives none: INIT presented in IDLE when Ready (R117), reset while busy (R223), or in IDLE a word on the
model's own port that is no transport request (R88; log entries 4 and 15). -/
def Obligations.RunsStopOnlyWhereSpecDoes : Prop :=
  ∀ s : State, Inv s →
    (∀ r, step s ≠ .fault r) ∧
    (∀ r, step s = .refused r ↔
      (r = .initWhenReady ∧ s.pins.rst = false ∧ s.ph = .idle ∧ s.ds = .ready ∧
        ∃ c, s.pins.cmd = some c ∧ c.extractLsb' 40 2 = 0b00) ∨
      (r = .resetWhileBusy ∧ s.pins.rst = true ∧ s.ph ≠ .idle) ∨
      (∃ d q, r = .illegalRequest d ∧ s.pins.rst = false ∧ s.ph = .idle ∧ s.pins.cmd = none ∧
        s.pins.prim = some q ∧ decode (primEncoded q) = .error d))

/-- R120: with no reset and nothing run from the primitive port, an edge takes exactly the steps of R120's
table. Each step of the table is taken when its guard holds; and an edge that answers a next state took
a step of the table, or none was enabled and nothing changed but that the Transport may have taken the
request (R88). In DELIVER the values of `FRAME` and `RSPR` and the record of responses are the model's
choices (log entries 3, 10 and 5). That a command comes before a word on the port is log entry 4, that an
answer comes at a later edge than its request is log entry 8, that `CMDR` keeps the ignored bits is log
entry 11, and that an edge at which no step is enabled answers a next state is log entry 20. -/
def Obligations.EdgesAreTableSteps : Prop :=
  ∀ s t : State, s.pins.rst = false →
    (s.ph = .idle → s.pins.cmd = none → s.pins.prim = none) →
    (TableStep s t → edge s = .next t) ∧
    (edge s = .next t → TableStep s t ∨
      ((∀ u, ¬ TableStep s u) ∧
        (t = s ∨ (s.txqValid = true ∧ s.pins.txqReady = true ∧ t = { s with txqValid := false }))))

/-- R22: `PH` advances only as its table says, in every state. -/
def Obligations.PhaseMovesByTable : Prop :=
  ∀ s t : State, step s = .next t → t.ph = s.ph ∨ phaseMove s.ph t.ph = true

/-- R21: `DS` is written only by INIT's last write answered Ok, and by reset. That the answer is taken at a
later edge than the transfer of its request (`TXQ_VALID` is 0) is the model's choice (log entry 8). -/
def Obligations.OnlyInitMakesReady : Prop :=
  ∀ s t : State, step s = .next t →
    t.ds = s.ds ∨
    (s.pins.rst = true ∧ t.ds = .uninitialized) ∨
    (s.ph = .init 3 ∧ s.txqValid = false ∧ (∃ w, s.pins.txa = some w ∧ txaOk w = true) ∧ t.ds = .ready)

/-- R61: a step adds at most one transaction to the event trace and changes none before it. The one it adds
is answered at that edge: in a run it is the transaction in flight, whose request was transferred, and
in IDLE it is the primitive on the model's own port (log entries 4 and 16). That outside IDLE no answer is
taken before or at the edge of its request's transfer (`TXQ_VALID` is 0) is the model's choice (log entry 8). -/
def Obligations.TraceOnlyGrows : Prop :=
  ∀ s t : State, s.pins.rst = false → step s = .next t →
    t.trace = s.trace ∨
    ∃ T w, s.pins.txa = some w ∧ t.trace = s.trace ++ [answered T w] ∧
      (s.ph = .idle → s.pins.cmd = none ∧
        ∃ q i, s.pins.prim = some q ∧ decode (primEncoded q) = .ok i ∧ primTxn i = some T) ∧
      (s.ph ≠ .idle → s.txqValid = false ∧ waitsForAnswer s.ph = true ∧ (Inv s → s.inFlight = some T))

/-- R88: the request words of a run are the five that R88 lists. One is shown exactly while `TXQ_VALID` is 1,
and then no answer is taken; an answer is taken exactly while a transferred request of INIT or READ is
not answered. That `TXQ_VALID` and `TXA_READY` are never 1 together is the model's choice (log entry 8). -/
def Obligations.FiveRequestWords : Prop :=
  ∀ s : State, Inv s →
    (txqBus s ≠ none ↔ s.txqValid = true) ∧
    (txaReady s = true ↔ s.inFlight ≠ none ∧ txqBus s = none) ∧
    ∀ q, txqBus s = some q →
      q = 0x02C0A ∨ q = 0x02D08 ∨ q = 0x02E00 ∨ q = 0x03100 ∨ q = 0xE3200

/-- No instruction changes the parameters (R27), which stand in the state by the model's choice (log entry 2),
nor the environment's side of the channels and the record of what the Host has taken, which are the
model's own fields (log entries 5 and 6). -/
def Obligations.InstructionsKeepParameters : Prop :=
  ∀ (i : Instr) (s t : State), exec i s = .next t →
    t.offsets = s.offsets ∧ t.pins = s.pins ∧ t.inputs = s.inputs ∧ t.delivered = s.delivered

/-- Frame of TILT and AWE: `DS`, `FRAME`, the bus and its trace are unchanged (R119, R176). -/
def Obligations.AngleCommandsTouchNoBus : Prop :=
  ∀ (a z : Comp) (s t : State), exec (.tilt a z) s = .next t ∨ exec (.awe a z) s = .next t →
    t.ds = s.ds ∧ t.frame = s.frame ∧ t.inFlight = s.inFlight ∧ t.trace = s.trace ∧
    (s.ph = .ang → t.cmdr = s.cmdr)

/-- Frame of READ and of the frames and requests: `DS` is unchanged but by INIT and its last write (R114, R21),
and no frame or request writes `CMDR` (R25). -/
def Obligations.ReadAndPrimitivesKeepDriverState : Prop :=
  ∀ (i : Instr) (s t : State), exec i s = .next t →
    (∀ pad, i ≠ .init pad) → (i = .initWrite4 → s.ph ≠ .init 3) →
      t.ds = s.ds ∧ ((∀ pad, i ≠ .read pad) → (∀ a z, i ≠ .tilt a z) → (∀ a z, i ≠ .awe a z) →
        t.cmdr = s.cmdr)
end

