-- ==== Sys2Proof/Laws/Codec.lean ====
section
/-! SUPPORT. The fields of the words: putting a word together and taking it apart. -/

namespace Sys2Proof

theorem cmdWordC_op (op : BitVec 2) (pad : BitVec 40) :
    (cmdWordC op pad).extractLsb' 40 2 = op := by
  unfold cmdWordC
  rw [BitVec.extractLsb'_append_eq_of_le (by decide)]
  simp

theorem cmdWordC_pad (op : BitVec 2) (pad : BitVec 40) :
    (cmdWordC op pad).extractLsb' 0 40 = pad := by
  unfold cmdWordC
  rw [BitVec.extractLsb'_append_eq_of_add_le (by decide)]
  simp

theorem cmdWordA_op (op : BitVec 2) (a z : Comp) :
    (cmdWordA op a z).extractLsb' 40 2 = op := cmdWordC_op op (a ++ z)

theorem cmdWordA_a (op : BitVec 2) (a z : Comp) :
    (cmdWordA op a z).extractLsb' 20 20 = a := by
  unfold cmdWordA
  rw [BitVec.extractLsb'_append_eq_of_add_le (by decide),
    BitVec.extractLsb'_append_eq_of_le (by decide)]
  simp

theorem cmdWordA_z (op : BitVec 2) (a z : Comp) :
    (cmdWordA op a z).extractLsb' 0 20 = z := by
  unfold cmdWordA
  rw [BitVec.extractLsb'_append_eq_of_add_le (by decide),
    BitVec.extractLsb'_append_eq_of_add_le (by decide)]
  simp

/-- The four opcodes (R82). -/
theorem decodeCmd_init (pad : BitVec 40) : decodeCmd (cmdWordC 0b00 pad) = .init pad := by
  simp [decodeCmd, cmdWordC_op, cmdWordC_pad]

theorem decodeCmd_read (pad : BitVec 40) : decodeCmd (cmdWordC 0b01 pad) = .read pad := by
  simp [decodeCmd, cmdWordC_op, cmdWordC_pad]

theorem decodeCmd_tilt (a z : Comp) : decodeCmd (cmdWordA 0b10 a z) = .tilt a z := by
  simp [decodeCmd, cmdWordA_op, cmdWordA_a, cmdWordA_z]

theorem decodeCmd_awe (a z : Comp) : decodeCmd (cmdWordA 0b11 a z) = .awe a z := by
  simp [decodeCmd, cmdWordA_op, cmdWordA_a, cmdWordA_z]

theorem writeFrameWord_addr (a v : Byte) : (writeFrameWord a v).extractLsb' 8 8 = a := by
  unfold writeFrameWord
  rw [BitVec.extractLsb'_append_eq_of_le (by decide)]
  simp

theorem writeFrameWord_value (a v : Byte) : (writeFrameWord a v).extractLsb' 0 8 = v := by
  unfold writeFrameWord
  rw [BitVec.extractLsb'_append_eq_of_add_le (by decide)]
  simp

/-- Two write frames are one word only if they are one frame. -/
theorem writeFrameWord_inj {a v a' v' : Byte} (h : writeFrameWord a v = writeFrameWord a' v') :
    a = a' ∧ v = v' := by
  refine ⟨?_, ?_⟩
  · have := congrArg (BitVec.extractLsb' 8 8) h
    simpa [writeFrameWord_addr] using this
  · have := congrArg (BitVec.extractLsb' 0 8) h
    simpa [writeFrameWord_value] using this

/-- The six bytes of a data frame (R92). -/
theorem frameOfPattern_patternOfFrame (f : Frame) : frameOfPattern (patternOfFrame f) = f := by
  obtain ⟨b0, b1, b2, b3, b4, b5⟩ := f
  simp only [frameOfPattern, patternOfFrame, Frame.mk.injEq]
  refine ⟨?_, ?_, ?_, ?_, ?_, ?_⟩ <;>
  · repeat (first
      | rw [BitVec.extractLsb'_append_eq_of_le (by decide)]
      | rw [BitVec.extractLsb'_append_eq_of_add_le (by decide)])
    simp

/-- The six bytes of a transport answer (R89). -/
theorem txaFrame_txaOfFrame (f : Frame) : Machine.txaFrame (Machine.txaOfFrame f) = f := by
  obtain ⟨b0, b1, b2, b3, b4, b5⟩ := f
  simp only [Machine.txaFrame, Machine.txaOfFrame, Frame.mk.injEq]
  refine ⟨?_, ?_, ?_, ?_, ?_, ?_⟩ <;>
  · repeat (first
      | rw [BitVec.extractLsb'_append_eq_of_le (by decide)]
      | rw [BitVec.extractLsb'_append_eq_of_add_le (by decide)])
    simp

theorem txaOk_txaOfFrame (f : Frame) : Machine.txaOk (Machine.txaOfFrame f) = true := by
  unfold Machine.txaOk Machine.txaOfFrame
  rw [BitVec.getLsbD_append]
  simp

theorem txqWord_kind (k : BitVec 1) (r : BitVec 3) (a b : Byte) :
    (txqWord k r a b).extractLsb' 19 1 = k := by
  unfold txqWord
  rw [BitVec.extractLsb'_append_eq_of_le (by decide)]
  simp

theorem txqWord_rlen (k : BitVec 1) (r : BitVec 3) (a b : Byte) :
    (txqWord k r a b).extractLsb' 16 3 = r := by
  unfold txqWord
  repeat (first
    | rw [BitVec.extractLsb'_append_eq_of_le (by decide)]
    | rw [BitVec.extractLsb'_append_eq_of_add_le (by decide)])
  simp

theorem txqWord_w0 (k : BitVec 1) (r : BitVec 3) (a b : Byte) :
    (txqWord k r a b).extractLsb' 8 8 = a := by
  unfold txqWord
  repeat (first
    | rw [BitVec.extractLsb'_append_eq_of_le (by decide)]
    | rw [BitVec.extractLsb'_append_eq_of_add_le (by decide)])
  simp

theorem txqWord_w1 (k : BitVec 1) (r : BitVec 3) (a b : Byte) :
    (txqWord k r a b).extractLsb' 0 8 = b := by
  unfold txqWord
  repeat (first
    | rw [BitVec.extractLsb'_append_eq_of_le (by decide)]
    | rw [BitVec.extractLsb'_append_eq_of_add_le (by decide)])
  simp

end Sys2Proof
end

