-- ==== Sys2Proof/Laws/State.lean ====
section
/-! SUPPORT. For each update of the state, one lemma per field: what the field holds after it. -/

namespace Sys2Proof.Machine

section latch
variable (c : CmdWord) (s : State)

@[simp] theorem latch_ds : (latch c s).ds = s.ds := rfl
@[simp] theorem latch_ph : (latch c s).ph = s.ph := rfl
@[simp] theorem latch_cmdr : (latch c s).cmdr = some c := rfl
@[simp] theorem latch_frame : (latch c s).frame = s.frame := rfl
@[simp] theorem latch_rspValid : (latch c s).rspValid = s.rspValid := rfl
@[simp] theorem latch_rspr : (latch c s).rspr = s.rspr := rfl
@[simp] theorem latch_inFlight : (latch c s).inFlight = s.inFlight := rfl
@[simp] theorem latch_txqValid : (latch c s).txqValid = s.txqValid := rfl
@[simp] theorem latch_trace : (latch c s).trace = s.trace := rfl
@[simp] theorem latch_delivered : (latch c s).delivered = s.delivered := rfl
@[simp] theorem latch_offsets : (latch c s).offsets = s.offsets := rfl
@[simp] theorem latch_pins : (latch c s).pins = s.pins := rfl
@[simp] theorem latch_inputs : (latch c s).inputs = s.inputs := rfl

end latch

section setPhase
variable (p : Phase) (s : State)

@[simp] theorem setPhase_ds : (setPhase p s).ds = s.ds := rfl
@[simp] theorem setPhase_ph : (setPhase p s).ph = p := rfl
@[simp] theorem setPhase_cmdr : (setPhase p s).cmdr = s.cmdr := rfl
@[simp] theorem setPhase_frame : (setPhase p s).frame = s.frame := rfl
@[simp] theorem setPhase_rspValid : (setPhase p s).rspValid = s.rspValid := rfl
@[simp] theorem setPhase_rspr : (setPhase p s).rspr = s.rspr := rfl
@[simp] theorem setPhase_inFlight : (setPhase p s).inFlight = s.inFlight := rfl
@[simp] theorem setPhase_txqValid : (setPhase p s).txqValid = s.txqValid := rfl
@[simp] theorem setPhase_trace : (setPhase p s).trace = s.trace := rfl
@[simp] theorem setPhase_delivered : (setPhase p s).delivered = s.delivered := rfl
@[simp] theorem setPhase_offsets : (setPhase p s).offsets = s.offsets := rfl
@[simp] theorem setPhase_pins : (setPhase p s).pins = s.pins := rfl
@[simp] theorem setPhase_inputs : (setPhase p s).inputs = s.inputs := rfl

end setPhase

section setReady
variable (s : State)

@[simp] theorem setReady_ds : (setReady s).ds = .ready := rfl
@[simp] theorem setReady_ph : (setReady s).ph = s.ph := rfl
@[simp] theorem setReady_cmdr : (setReady s).cmdr = s.cmdr := rfl
@[simp] theorem setReady_frame : (setReady s).frame = s.frame := rfl
@[simp] theorem setReady_rspValid : (setReady s).rspValid = s.rspValid := rfl
@[simp] theorem setReady_rspr : (setReady s).rspr = s.rspr := rfl
@[simp] theorem setReady_inFlight : (setReady s).inFlight = s.inFlight := rfl
@[simp] theorem setReady_txqValid : (setReady s).txqValid = s.txqValid := rfl
@[simp] theorem setReady_trace : (setReady s).trace = s.trace := rfl
@[simp] theorem setReady_delivered : (setReady s).delivered = s.delivered := rfl
@[simp] theorem setReady_offsets : (setReady s).offsets = s.offsets := rfl
@[simp] theorem setReady_pins : (setReady s).pins = s.pins := rfl
@[simp] theorem setReady_inputs : (setReady s).inputs = s.inputs := rfl

end setReady

section loadFrame
variable (f : Frame) (s : State)

@[simp] theorem loadFrame_ds : (loadFrame f s).ds = s.ds := rfl
@[simp] theorem loadFrame_ph : (loadFrame f s).ph = s.ph := rfl
@[simp] theorem loadFrame_cmdr : (loadFrame f s).cmdr = s.cmdr := rfl
@[simp] theorem loadFrame_frame : (loadFrame f s).frame = some f := rfl
@[simp] theorem loadFrame_rspValid : (loadFrame f s).rspValid = s.rspValid := rfl
@[simp] theorem loadFrame_rspr : (loadFrame f s).rspr = s.rspr := rfl
@[simp] theorem loadFrame_inFlight : (loadFrame f s).inFlight = s.inFlight := rfl
@[simp] theorem loadFrame_txqValid : (loadFrame f s).txqValid = s.txqValid := rfl
@[simp] theorem loadFrame_trace : (loadFrame f s).trace = s.trace := rfl
@[simp] theorem loadFrame_delivered : (loadFrame f s).delivered = s.delivered := rfl
@[simp] theorem loadFrame_offsets : (loadFrame f s).offsets = s.offsets := rfl
@[simp] theorem loadFrame_pins : (loadFrame f s).pins = s.pins := rfl
@[simp] theorem loadFrame_inputs : (loadFrame f s).inputs = s.inputs := rfl

end loadFrame

section request
variable (q : Txn) (s : State)

@[simp] theorem request_ds : (request q s).ds = s.ds := rfl
@[simp] theorem request_ph : (request q s).ph = s.ph := rfl
@[simp] theorem request_cmdr : (request q s).cmdr = s.cmdr := rfl
@[simp] theorem request_frame : (request q s).frame = s.frame := rfl
@[simp] theorem request_rspValid : (request q s).rspValid = s.rspValid := rfl
@[simp] theorem request_rspr : (request q s).rspr = s.rspr := rfl
@[simp] theorem request_inFlight : (request q s).inFlight = some q := rfl
@[simp] theorem request_txqValid : (request q s).txqValid = true := rfl
@[simp] theorem request_trace : (request q s).trace = s.trace := rfl
@[simp] theorem request_delivered : (request q s).delivered = s.delivered := rfl
@[simp] theorem request_offsets : (request q s).offsets = s.offsets := rfl
@[simp] theorem request_pins : (request q s).pins = s.pins := rfl
@[simp] theorem request_inputs : (request q s).inputs = s.inputs := rfl

end request

section transferRequest
variable (s : State)

@[simp] theorem transferRequest_ds : (transferRequest s).ds = s.ds := rfl
@[simp] theorem transferRequest_ph : (transferRequest s).ph = s.ph := rfl
@[simp] theorem transferRequest_cmdr : (transferRequest s).cmdr = s.cmdr := rfl
@[simp] theorem transferRequest_frame : (transferRequest s).frame = s.frame := rfl
@[simp] theorem transferRequest_rspValid : (transferRequest s).rspValid = s.rspValid := rfl
@[simp] theorem transferRequest_rspr : (transferRequest s).rspr = s.rspr := rfl
@[simp] theorem transferRequest_inFlight : (transferRequest s).inFlight = s.inFlight := rfl
@[simp] theorem transferRequest_txqValid : (transferRequest s).txqValid = (s.txqValid && !s.pins.txqReady) := rfl
@[simp] theorem transferRequest_trace : (transferRequest s).trace = s.trace := rfl
@[simp] theorem transferRequest_delivered : (transferRequest s).delivered = s.delivered := rfl
@[simp] theorem transferRequest_offsets : (transferRequest s).offsets = s.offsets := rfl
@[simp] theorem transferRequest_pins : (transferRequest s).pins = s.pins := rfl
@[simp] theorem transferRequest_inputs : (transferRequest s).inputs = s.inputs := rfl

end transferRequest

section record
variable (e : Event) (s : State)

@[simp] theorem record_ds : (record e s).ds = s.ds := rfl
@[simp] theorem record_ph : (record e s).ph = s.ph := rfl
@[simp] theorem record_cmdr : (record e s).cmdr = s.cmdr := rfl
@[simp] theorem record_frame : (record e s).frame = s.frame := rfl
@[simp] theorem record_rspValid : (record e s).rspValid = s.rspValid := rfl
@[simp] theorem record_rspr : (record e s).rspr = s.rspr := rfl
@[simp] theorem record_inFlight : (record e s).inFlight = none := rfl
@[simp] theorem record_txqValid : (record e s).txqValid = false := rfl
@[simp] theorem record_trace : (record e s).trace = s.trace ++ [e] := rfl
@[simp] theorem record_delivered : (record e s).delivered = s.delivered := rfl
@[simp] theorem record_offsets : (record e s).offsets = s.offsets := rfl
@[simp] theorem record_pins : (record e s).pins = s.pins := rfl
@[simp] theorem record_inputs : (record e s).inputs = s.inputs := rfl

end record

section respond
variable (p : Payload) (s : State)

@[simp] theorem respond_ds : (respond p s).ds = s.ds := rfl
@[simp] theorem respond_ph : (respond p s).ph = .resp := rfl
@[simp] theorem respond_cmdr : (respond p s).cmdr = s.cmdr := rfl
@[simp] theorem respond_frame : (respond p s).frame = s.frame := rfl
@[simp] theorem respond_rspValid : (respond p s).rspValid = true := rfl
@[simp] theorem respond_rspr : (respond p s).rspr = some (.ok p) := rfl
@[simp] theorem respond_inFlight : (respond p s).inFlight = s.inFlight := rfl
@[simp] theorem respond_txqValid : (respond p s).txqValid = s.txqValid := rfl
@[simp] theorem respond_trace : (respond p s).trace = s.trace := rfl
@[simp] theorem respond_delivered : (respond p s).delivered = s.delivered := rfl
@[simp] theorem respond_offsets : (respond p s).offsets = s.offsets := rfl
@[simp] theorem respond_pins : (respond p s).pins = s.pins := rfl
@[simp] theorem respond_inputs : (respond p s).inputs = s.inputs := rfl

end respond

section raise
variable (e : Error) (s : State)

@[simp] theorem raise_ds : (raise e s).ds = s.ds := rfl
@[simp] theorem raise_ph : (raise e s).ph = .resp := rfl
@[simp] theorem raise_cmdr : (raise e s).cmdr = s.cmdr := rfl
@[simp] theorem raise_frame : (raise e s).frame = none := rfl
@[simp] theorem raise_rspValid : (raise e s).rspValid = true := rfl
@[simp] theorem raise_rspr : (raise e s).rspr = some (.error e) := rfl
@[simp] theorem raise_inFlight : (raise e s).inFlight = s.inFlight := rfl
@[simp] theorem raise_txqValid : (raise e s).txqValid = s.txqValid := rfl
@[simp] theorem raise_trace : (raise e s).trace = s.trace := rfl
@[simp] theorem raise_delivered : (raise e s).delivered = s.delivered := rfl
@[simp] theorem raise_offsets : (raise e s).offsets = s.offsets := rfl
@[simp] theorem raise_pins : (raise e s).pins = s.pins := rfl
@[simp] theorem raise_inputs : (raise e s).inputs = s.inputs := rfl

end raise

section deliver
variable (r : Response) (s : State)

@[simp] theorem deliver_ds : (deliver r s).ds = s.ds := rfl
@[simp] theorem deliver_ph : (deliver r s).ph = .idle := rfl
@[simp] theorem deliver_cmdr : (deliver r s).cmdr = s.cmdr := rfl
@[simp] theorem deliver_frame : (deliver r s).frame = none := rfl
@[simp] theorem deliver_rspValid : (deliver r s).rspValid = false := rfl
@[simp] theorem deliver_rspr : (deliver r s).rspr = s.rspr := rfl
@[simp] theorem deliver_inFlight : (deliver r s).inFlight = s.inFlight := rfl
@[simp] theorem deliver_txqValid : (deliver r s).txqValid = s.txqValid := rfl
@[simp] theorem deliver_trace : (deliver r s).trace = s.trace := rfl
@[simp] theorem deliver_delivered : (deliver r s).delivered = s.delivered ++ [r] := rfl
@[simp] theorem deliver_offsets : (deliver r s).offsets = s.offsets := rfl
@[simp] theorem deliver_pins : (deliver r s).pins = s.pins := rfl
@[simp] theorem deliver_inputs : (deliver r s).inputs = s.inputs := rfl

end deliver

section takeReset
variable (s : State)

@[simp] theorem takeReset_ds : (takeReset s).ds = .uninitialized := rfl
@[simp] theorem takeReset_ph : (takeReset s).ph = .idle := rfl
@[simp] theorem takeReset_cmdr : (takeReset s).cmdr = none := rfl
@[simp] theorem takeReset_frame : (takeReset s).frame = none := rfl
@[simp] theorem takeReset_rspValid : (takeReset s).rspValid = false := rfl
@[simp] theorem takeReset_rspr : (takeReset s).rspr = none := rfl
@[simp] theorem takeReset_inFlight : (takeReset s).inFlight = none := rfl
@[simp] theorem takeReset_txqValid : (takeReset s).txqValid = false := rfl
@[simp] theorem takeReset_trace : (takeReset s).trace = [] := rfl
@[simp] theorem takeReset_delivered : (takeReset s).delivered = [] := rfl
@[simp] theorem takeReset_offsets : (takeReset s).offsets = s.offsets := rfl
@[simp] theorem takeReset_pins : (takeReset s).pins = s.pins := rfl
@[simp] theorem takeReset_inputs : (takeReset s).inputs = s.inputs := rfl

end takeReset

section nextEdge
variable (s : State)

@[simp] theorem nextEdge_ds : (nextEdge s).ds = s.ds := rfl
@[simp] theorem nextEdge_ph : (nextEdge s).ph = s.ph := rfl
@[simp] theorem nextEdge_cmdr : (nextEdge s).cmdr = s.cmdr := rfl
@[simp] theorem nextEdge_frame : (nextEdge s).frame = s.frame := rfl
@[simp] theorem nextEdge_rspValid : (nextEdge s).rspValid = s.rspValid := rfl
@[simp] theorem nextEdge_rspr : (nextEdge s).rspr = s.rspr := rfl
@[simp] theorem nextEdge_inFlight : (nextEdge s).inFlight = s.inFlight := rfl
@[simp] theorem nextEdge_txqValid : (nextEdge s).txqValid = s.txqValid := rfl
@[simp] theorem nextEdge_trace : (nextEdge s).trace = s.trace := rfl
@[simp] theorem nextEdge_delivered : (nextEdge s).delivered = s.delivered := rfl
@[simp] theorem nextEdge_offsets : (nextEdge s).offsets = s.offsets := rfl
@[simp] theorem nextEdge_pins : (nextEdge s).pins = s.inputs.headD {} := rfl
@[simp] theorem nextEdge_inputs : (nextEdge s).inputs = s.inputs.tail := rfl

end nextEdge

section startInitWrite
variable (k : Fin 4) (s : State)

@[simp] theorem startInitWrite_ds : (startInitWrite k s).ds = s.ds := rfl
@[simp] theorem startInitWrite_ph : (startInitWrite k s).ph = .init k := rfl
@[simp] theorem startInitWrite_cmdr : (startInitWrite k s).cmdr = s.cmdr := rfl
@[simp] theorem startInitWrite_frame : (startInitWrite k s).frame = s.frame := rfl
@[simp] theorem startInitWrite_rspValid : (startInitWrite k s).rspValid = s.rspValid := rfl
@[simp] theorem startInitWrite_rspr : (startInitWrite k s).rspr = s.rspr := rfl
@[simp] theorem startInitWrite_inFlight : (startInitWrite k s).inFlight = some (initTxn k) := rfl
@[simp] theorem startInitWrite_txqValid : (startInitWrite k s).txqValid = true := rfl
@[simp] theorem startInitWrite_trace : (startInitWrite k s).trace = s.trace := rfl
@[simp] theorem startInitWrite_delivered : (startInitWrite k s).delivered = s.delivered := rfl
@[simp] theorem startInitWrite_offsets : (startInitWrite k s).offsets = s.offsets := rfl
@[simp] theorem startInitWrite_pins : (startInitWrite k s).pins = s.pins := rfl
@[simp] theorem startInitWrite_inputs : (startInitWrite k s).inputs = s.inputs := rfl

end startInitWrite

section finishRead
variable (f : Frame) (s : State)

@[simp] theorem finishRead_ds : (finishRead f s).ds = s.ds := rfl
@[simp] theorem finishRead_ph : (finishRead f s).ph = .resp := rfl
@[simp] theorem finishRead_cmdr : (finishRead f s).cmdr = s.cmdr := rfl
@[simp] theorem finishRead_frame : (finishRead f s).frame = some f := rfl
@[simp] theorem finishRead_rspValid : (finishRead f s).rspValid = true := rfl
@[simp] theorem finishRead_rspr : (finishRead f s).rspr =
    some (.ok (samplePayload (sample s.offsets f).x (sample s.offsets f).y (sample s.offsets f).z)) := rfl
@[simp] theorem finishRead_inFlight : (finishRead f s).inFlight = s.inFlight := rfl
@[simp] theorem finishRead_txqValid : (finishRead f s).txqValid = s.txqValid := rfl
@[simp] theorem finishRead_trace : (finishRead f s).trace = s.trace := rfl
@[simp] theorem finishRead_delivered : (finishRead f s).delivered = s.delivered := rfl
@[simp] theorem finishRead_offsets : (finishRead f s).offsets = s.offsets := rfl
@[simp] theorem finishRead_pins : (finishRead f s).pins = s.pins := rfl
@[simp] theorem finishRead_inputs : (finishRead f s).inputs = s.inputs := rfl

end finishRead

end Sys2Proof.Machine
end

