-- ==== Sys2Proof/Laws/Ops.lean ====
section
/-! SUPPORT. What each shared operation can do, said once: the outcome combinator, a primitive's call, the
two register primitives on byte operands, an angle command, an exposed primitive, a frame of INIT. -/

namespace Sys2Proof.Machine

@[simp] theorem onNext_next (g : State → State) (s : State) : onNext g (.next s) = .next (g s) := rfl
@[simp] theorem onNext_fault (g : State → State) (r : Fault) : onNext g (.fault r) = .fault r := rfl
@[simp] theorem onNext_refused (g : State → State) (r : Refusal) :
    onNext g (.refused r) = .refused r := rfl

/-- A mapped outcome is a next state only through a next state. -/
theorem onNext_eq_next {g : State → State} {o : Result} {t : State} (h : onNext g o = .next t) :
    ∃ u, o = .next u ∧ g u = t := by
  cases o with
  | next u => exact ⟨u, rfl, by simpa using h⟩
  | fault r => simp at h
  | refused r => simp at h

theorem onNext_eq_fault {g : State → State} {o : Result} {r : Fault} (h : onNext g o = .fault r) :
    o = .fault r := by
  cases o <;> simp_all

theorem onNext_eq_refused {g : State → State} {o : Result} {r : Refusal}
    (h : onNext g o = .refused r) : o = .refused r := by
  cases o <;> simp_all

/-- A byte is in the range that the primitives check (R50). -/
@[simp] theorem fitsByte_toNat (b : Byte) : fitsByte (b.toNat : Int) = true := by
  have := b.isLt
  simp only [fitsByte, decide_eq_true_eq]
  omega

/-- The byte that a primitive puts in its request is the operand. -/
@[simp] theorem tc_toNat (b : Byte) : tc 8 (b.toNat : Int) = b := by
  simp [tc]

/-- An answer is taken only after the request is transferred. -/
theorem transportAnswer_eq_some {s : State} {w : TxaWord} :
    transportAnswer s = some w ↔ s.txqValid = false ∧ s.pins.txa = some w := by
  unfold transportAnswer
  cases s.txqValid <;> simp

/-- REGWR of two bytes, by the Transport's answer (R111). -/
theorem regwr_byte (a v : Byte) (ans : Option TxaWord) (s : State) :
    regwr a.toNat v.toNat ans s =
      match ans with
      | none => .blocked
      | some w =>
        if txaOk w then .returned () (record (.writeOk a v) s)
        else .raised .transportError (record (.writeFail a v) s) := by
  cases ans <;> simp [regwr]

/-- REGRD of a byte address, by the Transport's answer (R112). -/
theorem regrd_byte (a : Byte) (ans : Option TxaWord) (s : State) :
    regrd a.toNat ans s =
      match ans with
      | none => .blocked
      | some w =>
        if txaOk w then .returned (txaFrame w) (record (.readOk a (txaFrame w)) s)
        else .raised .transportError (record (.readFail a) s) := by
  cases ans <;> simp [regrd]

/-- A call of REGWR on bytes: it waits, returns to its caller, or takes an error; never a stop. -/
theorem callPrim_regwr (a v : Byte) (ans : Option TxaWord) (k : Unit → State → State) (s u : State) :
    (ans = none ∧ callPrim (regwr a.toNat v.toNat ans s) k u = .next u) ∨
    (∃ w, ans = some w ∧ txaOk w = true ∧
      callPrim (regwr a.toNat v.toNat ans s) k u = .next (k () (record (.writeOk a v) s))) ∨
    (∃ w, ans = some w ∧ txaOk w = false ∧
      callPrim (regwr a.toNat v.toNat ans s) k u =
        .next (raise .transportError (record (.writeFail a v) s))) := by
  rw [regwr_byte]
  cases ans with
  | none => simp [callPrim]
  | some w => cases hw : txaOk w <;> simp [callPrim, hw]

/-- A call of REGRD on a byte address: it waits, returns to its caller, or takes an error; never a stop. -/
theorem callPrim_regrd (a : Byte) (ans : Option TxaWord) (k : Frame → State → State) (s u : State) :
    (ans = none ∧ callPrim (regrd a.toNat ans s) k u = .next u) ∨
    (∃ w, ans = some w ∧ txaOk w = true ∧
      callPrim (regrd a.toNat ans s) k u =
        .next (k (txaFrame w) (record (.readOk a (txaFrame w)) s))) ∨
    (∃ w, ans = some w ∧ txaOk w = false ∧
      callPrim (regrd a.toNat ans s) k u =
        .next (raise .transportError (record (.readFail a) s))) := by
  rw [regrd_byte]
  cases ans with
  | none => simp [callPrim]
  | some w => cases hw : txaOk w <;> simp [callPrim, hw]

/-- An angle command answers a next state only by ACCEPT-ANGLE or ANGLE-DONE (R120). -/
theorem angleCommand_cases {op : BitVec 2} {a z : Comp} {s t : State}
    (h : angleCommand op a z s = .next t) :
    (s.ph = .idle ∧ t = setPhase .ang (latch (cmdWordA op a z) s)) ∨
    (s.ph = .ang ∧ t = respond (anglePayload (angle a z)) s) := by
  unfold angleCommand at h
  cases hp : s.ph <;> simp_all

/-- A write primitive on its own answers a next state only in IDLE. -/
theorem exposedWrite_cases {a v : Byte} {s t : State} (h : exposedWrite a v s = .next t) :
    s.ph = .idle ∧ (t = s ∨
      (∃ w, s.pins.txa = some w ∧ txaOk w = true ∧ t = record (.writeOk a v) s) ∨
      (∃ w, s.pins.txa = some w ∧ txaOk w = false ∧
        t = raise .transportError (record (.writeFail a v) s))) := by
  unfold exposedWrite at h
  cases hp : s.ph <;> simp only [hp, reduceCtorEq] at h
  refine ⟨rfl, ?_⟩
  rcases callPrim_regwr a v s.pins.txa (fun _ s' => s') s s with
    ⟨_, e⟩ | ⟨w, h1, h2, e⟩ | ⟨w, h1, h2, e⟩ <;> rw [e] at h
  · exact .inl (by simpa using h.symm)
  · exact .inr (.inl ⟨w, h1, h2, by simpa using h.symm⟩)
  · exact .inr (.inr ⟨w, h1, h2, by simpa using h.symm⟩)

/-- A read primitive on its own answers a next state only in IDLE. -/
theorem exposedRead_cases {a : Byte} {s t : State} (h : exposedRead a s = .next t) :
    s.ph = .idle ∧ (t = s ∨
      (∃ w, s.pins.txa = some w ∧ txaOk w = true ∧ t = record (.readOk a (txaFrame w)) s) ∨
      (∃ w, s.pins.txa = some w ∧ txaOk w = false ∧
        t = raise .transportError (record (.readFail a) s))) := by
  unfold exposedRead at h
  cases hp : s.ph <;> simp only [hp, reduceCtorEq] at h
  refine ⟨rfl, ?_⟩
  rcases callPrim_regrd a s.pins.txa (fun _ s' => s') s s with
    ⟨_, e⟩ | ⟨w, h1, h2, e⟩ | ⟨w, h1, h2, e⟩ <;> rw [e] at h
  · exact .inl (by simpa using h.symm)
  · exact .inr (.inl ⟨w, h1, h2, by simpa using h.symm⟩)
  · exact .inr (.inr ⟨w, h1, h2, by simpa using h.symm⟩)

/-- INIT in phase INITk: it waits, goes on to the next write or the end, or takes an error. -/
theorem initWriteStep_cases {k : Fin 4} {s t : State} (h : initWriteStep k s = .next t) :
    t = transferRequest s ∨
    (∃ w, transportAnswer s = some w ∧ txaOk w = true ∧
      t = afterInitWrite k (record (initOkEvent k) s)) ∨
    (∃ w, transportAnswer s = some w ∧ txaOk w = false ∧
      t = raise .transportError (record (initFailEvent k) s)) := by
  unfold initWriteStep at h
  rcases callPrim_regwr (Config.initSeq k).1 (Config.initSeq k).2 (transportAnswer s)
    (fun _ s' => afterInitWrite k s') s (transferRequest s) with
    ⟨_, e⟩ | ⟨w, h1, h2, e⟩ | ⟨w, h1, h2, e⟩ <;> rw [e] at h
  · exact .inl (by simpa using h.symm)
  · exact .inr (.inl ⟨w, h1, h2, by simpa [initOkEvent] using h.symm⟩)
  · exact .inr (.inr ⟨w, h1, h2, by simpa [initFailEvent] using h.symm⟩)

/-- READ in phase RD: it waits, finishes with the answer's data, or takes an error. -/
theorem readStep_cases {s t : State} (h : readStep s = .next t) :
    t = transferRequest s ∨
    (∃ w, transportAnswer s = some w ∧ txaOk w = true ∧
      t = finishRead (txaFrame w) (record (.readOk Config.dataBase (txaFrame w)) s)) ∨
    (∃ w, transportAnswer s = some w ∧ txaOk w = false ∧
      t = raise .transportError (record (.readFail Config.dataBase) s)) := by
  unfold readStep at h
  rcases callPrim_regrd Config.dataBase (transportAnswer s) finishRead s (transferRequest s) with
    ⟨_, e⟩ | ⟨w, h1, h2, e⟩ | ⟨w, h1, h2, e⟩ <;> rw [e] at h
  · exact .inl (by simpa using h.symm)
  · exact .inr (.inl ⟨w, h1, h2, by simpa using h.symm⟩)
  · exact .inr (.inr ⟨w, h1, h2, by simpa using h.symm⟩)

/-- The register primitives never stop the machine. -/
theorem initWriteStep_next (k : Fin 4) (s : State) : ∃ t, initWriteStep k s = .next t := by
  unfold initWriteStep
  rcases callPrim_regwr (Config.initSeq k).1 (Config.initSeq k).2 (transportAnswer s)
    (fun _ s' => afterInitWrite k s') s (transferRequest s) with
    ⟨_, e⟩ | ⟨w, _, _, e⟩ | ⟨w, _, _, e⟩ <;> exact ⟨_, e⟩

theorem readStep_next (s : State) : ∃ t, readStep s = .next t := by
  unfold readStep
  rcases callPrim_regrd Config.dataBase (transportAnswer s) finishRead s (transferRequest s) with
    ⟨_, e⟩ | ⟨w, _, _, e⟩ | ⟨w, _, _, e⟩ <;> exact ⟨_, e⟩

/-- In IDLE the exposed primitives never stop the machine. -/
theorem exposedWrite_next {s : State} (h : s.ph = .idle) (a v : Byte) :
    ∃ t, exposedWrite a v s = .next t := by
  simp only [exposedWrite, h]
  rcases callPrim_regwr a v s.pins.txa (fun _ s' => s') s s with
    ⟨_, e⟩ | ⟨w, _, _, e⟩ | ⟨w, _, _, e⟩ <;> exact ⟨_, e⟩

theorem exposedRead_next {s : State} (h : s.ph = .idle) (a : Byte) :
    ∃ t, exposedRead a s = .next t := by
  simp only [exposedRead, h]
  rcases callPrim_regrd a s.pins.txa (fun _ s' => s') s s with
    ⟨_, e⟩ | ⟨w, _, _, e⟩ | ⟨w, _, _, e⟩ <;> exact ⟨_, e⟩

end Sys2Proof.Machine
end

