-- ==== Sys2Proof/Laws/PerInstr.lean ====
section
/-! SUPPORT. The family `RoundTrip`, one lemma per constructor of `Instr`: a well-formed instruction decodes
from its word. -/

namespace Sys2Proof.Laws.RoundTrip

/-- The instruction's word decodes to it. -/
def Statement (i : Instr) : Prop := i.WellFormed → decode (encode i) = .ok i

theorem init (pad : BitVec 40) : Statement (.init pad) := fun _ => by
  simp only [encode, decode, decodeCmd_init]

theorem read (pad : BitVec 40) : Statement (.read pad) := fun _ => by
  simp only [encode, decode, decodeCmd_read]

theorem tilt (a z : Comp) : Statement (.tilt a z) := fun _ => by
  simp only [encode, decode, decodeCmd_tilt]

theorem awe (a z : Comp) : Statement (.awe a z) := fun _ => by
  simp only [encode, decode, decodeCmd_awe]

theorem regwrFrame (addr value : Byte) : Statement (.regwrFrame addr value) := fun h => by
  have hn : isInitPair addr value = false := by
    by_contra hc
    simp [Instr.WellFormed, Instr.illFormed, hc] at h
  have hne (k : Fin 4) : writeFrameWord addr value ≠
      writeFrameWord (Config.initSeq k).1 (Config.initSeq k).2 := by
    intro e
    obtain ⟨rfl, rfl⟩ := writeFrameWord_inj e
    fin_cases k <;> revert hn <;> decide
  have h0 : writeFrameWord addr value ≠ 0x2C0A := hne 0
  have h1 : writeFrameWord addr value ≠ 0x2D08 := hne 1
  have h2 : writeFrameWord addr value ≠ 0x2E00 := hne 2
  have h3 : writeFrameWord addr value ≠ 0x3100 := hne 3
  simp only [encode, decode, decodeW2, h0, h1, h2, h3, if_false, writeFrameWord_addr,
    writeFrameWord_value]

theorem initWrite1 : Statement .initWrite1 := fun _ => rfl
theorem initWrite2 : Statement .initWrite2 := fun _ => rfl
theorem initWrite3 : Statement .initWrite3 := fun _ => rfl
theorem initWrite4 : Statement .initWrite4 := fun _ => rfl

theorem regrdSelect (addr : Byte) : Statement (.regrdSelect addr) := fun h => by
  have hn : addr ≠ 0x32 := by
    rintro rfl
    revert h
    decide
  simp only [encode, decode, decodeSel1, hn, if_false]

theorem readSelect : Statement .readSelect := fun _ => rfl

theorem readData (f : Frame) : Statement (.readData f) := fun _ => by
  simp [encode, decode, frameOfPattern_patternOfFrame]

theorem txqWrite (w0 w1 : Byte) : Statement (.txqWrite w0 w1) := fun _ => by
  simp [encode, decode, decodeTxq, txqWord_kind, txqWord_rlen, txqWord_w0, txqWord_w1]

theorem txqWriteThenRead (w0 : Byte) : Statement (.txqWriteThenRead w0) := fun _ => by
  simp [encode, decode, decodeTxq, txqWord_kind, txqWord_rlen, txqWord_w0, txqWord_w1]

end Sys2Proof.Laws.RoundTrip
end

