-- ==== Sys2Proof/Laws/Step.lean ====
section
/-! SUPPORT. What one edge can do, said once: `edge_cases` lists every way in which an edge answers a next
state; claims about every step are derived from it. -/

namespace Sys2Proof.Machine

/-- Every way in which an instruction's meaning answers a next state. -/
inductive ExecCase (s : State) : State → Prop where
  | wait : ExecCase s s
  | transfer (hp : waitsForAnswer s.ph = true) : ExecCase s (transferRequest s)
  | acceptInit (hp : s.ph = .idle) (hd : s.ds = .uninitialized) (pad : BitVec 40) :
      ExecCase s (startInitWrite 0 (latch (cmdWordC 0b00 pad) s))
  | acceptReadUninit (hp : s.ph = .idle) (hd : s.ds = .uninitialized) (pad : BitVec 40) :
      ExecCase s (raise .notInitialized (latch (cmdWordC 0b01 pad) s))
  | acceptReadReady (hp : s.ph = .idle) (hd : s.ds = .ready) (pad : BitVec 40) : ExecCase s
      (setPhase .rd (request (.writeThenRead Config.dataBase) (latch (cmdWordC 0b01 pad) s)))
  | acceptAngle (hp : s.ph = .idle) (op : BitVec 2) (ho : op = 0b10 ∨ op = 0b11) (a z : Comp) :
      ExecCase s (setPhase .ang (latch (cmdWordA op a z) s))
  | primOk (hp : s.ph = .idle) (e : Event) : ExecCase s (record e s)
  | primFail (hp : s.ph = .idle) (e : Event) : ExecCase s (raise .transportError (record e s))
  | initOk (k : Fin 4) (hp : s.ph = .init k) (w : TxaWord) (ht : transportAnswer s = some w)
      (hw : txaOk w = true) : ExecCase s (afterInitWrite k (record (initOkEvent k) s))
  | initFail (k : Fin 4) (hp : s.ph = .init k) (w : TxaWord) (ht : transportAnswer s = some w)
      (hw : txaOk w = false) : ExecCase s (raise .transportError (record (initFailEvent k) s))
  | readOk (hp : s.ph = .rd) (f : Frame) :
      ExecCase s (finishRead f (record (.readOk Config.dataBase f) s))
  | readFail (hp : s.ph = .rd) (w : TxaWord) (ht : transportAnswer s = some w)
      (hw : txaOk w = false) : ExecCase s (raise .transportError (record (.readFail Config.dataBase) s))
  | angleDone (hp : s.ph = .ang) (a z : Comp) : ExecCase s (respond (anglePayload (angle a z)) s)

/-- Every way in which an edge answers a next state. -/
inductive EdgeCase (s : State) : State → Prop where
  | reset (hr : s.pins.rst = true) (hp : s.ph = .idle) : EdgeCase s (takeReset s)
  | worked (hr : s.pins.rst = false) {t : State} (h : ExecCase s t) : EdgeCase s t
  | delivered (hr : s.pins.rst = false) (hp : s.ph = .resp) (hv : s.rspValid = true) (r : Response)
      (hs : s.rspr = some r) : EdgeCase s (deliver r s)

/-- An exposed write primitive is one of the cases. -/
theorem execCase_of_exposedWrite {a v : Byte} {s t : State}
    (h : exposedWrite a v s = .next t) : ExecCase s t := by
  rcases exposedWrite_cases h with ⟨hp, rfl | ⟨w, -, -, rfl⟩ | ⟨w, -, -, rfl⟩⟩
  · exact .wait
  · exact .primOk hp _
  · exact .primFail hp _

theorem execCase_of_exposedRead {a : Byte} {s t : State}
    (h : exposedRead a s = .next t) : ExecCase s t := by
  rcases exposedRead_cases h with ⟨hp, rfl | ⟨w, -, -, rfl⟩ | ⟨w, -, -, rfl⟩⟩
  · exact .wait
  · exact .primOk hp _
  · exact .primFail hp _

theorem execCase_of_initWriteStep {k : Fin 4} {s t : State}
    (hp : s.ph = .init k) (h : initWriteStep k s = .next t) : ExecCase s t := by
  rcases initWriteStep_cases h with rfl | ⟨w, ht, hw, rfl⟩ | ⟨w, ht, hw, rfl⟩
  · exact .transfer (by rw [hp]; rfl)
  · exact .initOk k hp w ht hw
  · exact .initFail k hp w ht hw

theorem execCase_of_readStep {s t : State} (hp : s.ph = .rd)
    (h : readStep s = .next t) : ExecCase s t := by
  rcases readStep_cases h with rfl | ⟨w, -, -, rfl⟩ | ⟨w, ht, hw, rfl⟩
  · exact .transfer (by rw [hp]; rfl)
  · exact .readOk hp _
  · exact .readFail hp w ht hw

theorem execCase_of_initFrame {k : Fin 4} {s t : State}
    (h : initFrame k s = .next t) : ExecCase s t := by
  unfold initFrame at h
  split at h
  · exact execCase_of_initWriteStep ‹_› h
  · exact execCase_of_exposedWrite h

theorem execCase_of_angleCommand {op : BitVec 2} (ho : op = 0b10 ∨ op = 0b11) {a z : Comp}
    {s t : State} (h : angleCommand op a z s = .next t) :
    ExecCase s t := by
  rcases angleCommand_cases h with ⟨hp, rfl⟩ | ⟨hp, rfl⟩
  · exact .acceptAngle hp op ho a z
  · exact .angleDone hp a z

/-- Every instruction's meaning is one of the cases. -/
theorem execCase_of_exec {i : Instr} {s t : State}
    (h : exec i s = .next t) : ExecCase s t := by
  cases i with
  | init pad =>
    simp only [exec, execInit] at h
    cases hp : s.ph with
    | idle =>
      simp only [hp] at h
      cases hd : s.ds <;> simp only [hd, reduceCtorEq, Host.Outcome.next.injEq] at h
      exact h ▸ .acceptInit hp hd pad
    | init k => exact execCase_of_initWriteStep hp (by simpa only [hp] using h)
    | rd => simp [hp] at h
    | ang => simp [hp] at h
    | resp => simp [hp] at h
  | read pad =>
    simp only [exec, execRead] at h
    cases hp : s.ph with
    | idle =>
      simp only [hp] at h
      cases hd : s.ds <;> simp only [hd, Host.Outcome.next.injEq] at h
      · exact h ▸ .acceptReadUninit hp hd pad
      · exact h ▸ .acceptReadReady hp hd pad
    | init k => simp [hp] at h
    | rd => exact execCase_of_readStep hp (by simpa only [hp] using h)
    | ang => simp [hp] at h
    | resp => simp [hp] at h
  | tilt a z => exact execCase_of_angleCommand (.inl rfl) h
  | awe a z => exact execCase_of_angleCommand (.inr rfl) h
  | regwrFrame a v => exact execCase_of_exposedWrite h
  | initWrite1 => exact execCase_of_initFrame h
  | initWrite2 => exact execCase_of_initFrame h
  | initWrite3 => exact execCase_of_initFrame h
  | initWrite4 => exact execCase_of_initFrame h
  | regrdSelect a => exact execCase_of_exposedRead h
  | readSelect =>
    simp only [exec, execReadSelect] at h
    split at h
    · exact execCase_of_readStep ‹_› h
    · exact execCase_of_exposedRead h
  | readData f =>
    simp only [exec, execReadData] at h
    cases hp : s.ph <;> simp only [hp, reduceCtorEq, Host.Outcome.next.injEq] at h
    exact h ▸ .readOk hp f
  | txqWrite a v => exact execCase_of_exposedWrite h
  | txqWriteThenRead a => exact execCase_of_exposedRead h

/-- Every edge that answers a next state is one of the cases. -/
theorem edge_cases {s t : State} (h : edge s = .next t) : EdgeCase s t := by
  unfold edge at h
  split at h
  · rename_i hr
    unfold resetEdge at h
    cases hp : s.ph <;> simp only [hp, reduceCtorEq, Host.Outcome.next.injEq] at h
    exact h ▸ .reset hr hp
  · rename_i hr
    have hr : s.pins.rst = false := by simpa using hr
    split at h
    · unfold runWord at h
      split at h
      · exact .worked hr (execCase_of_exec h)
      · simp at h
    · unfold quietEdge at h
      cases hp : s.ph <;> simp only [hp, reduceCtorEq, Host.Outcome.next.injEq] at h
      · exact h ▸ .worked hr .wait
      · exact h ▸ .worked hr .wait
      · exact h ▸ .worked hr .wait
      · unfold respEdge at h
        split at h
        · rename_i hv
          simp only [Bool.and_eq_true] at hv
          split at h
          · rename_i r hs
            simp only [Host.Outcome.next.injEq] at h
            exact h ▸ .delivered hr hp hv.1 r hs
          · simp at h
        · simp only [Host.Outcome.next.injEq] at h
          exact h ▸ .worked hr .wait

/-- A called primitive never faults. -/
theorem callPrim_ne_fault {α : Type} (r : Reply α) (k : α → State → State) (u : State) (f : Fault) :
    callPrim r k u ≠ .fault f := by
  cases r <;> simp [callPrim]

/-- No instruction's meaning faults: none reads an element of R20 that may have no value. -/
theorem exec_ne_fault (i : Instr) (s : State) (f : Fault) : exec i s ≠ .fault f := by
  have hw (a v : Byte) : exposedWrite a v s ≠ .fault f := by
    unfold exposedWrite
    cases s.ph <;> simp [callPrim_ne_fault]
  have hr (a : Byte) : exposedRead a s ≠ .fault f := by
    unfold exposedRead
    cases s.ph <;> simp [callPrim_ne_fault]
  have hi (k : Fin 4) : initFrame k s ≠ .fault f := by
    unfold initFrame initWriteStep
    split
    · exact callPrim_ne_fault _ _ _ f
    · exact hw _ _
  have ha (op : BitVec 2) (a z : Comp) : angleCommand op a z s ≠ .fault f := by
    unfold angleCommand
    cases s.ph <;> simp
  cases i with
  | init pad =>
    simp only [exec, execInit]
    cases s.ph <;> cases s.ds <;> simp [initWriteStep, callPrim_ne_fault]
  | read pad =>
    simp only [exec, execRead]
    cases s.ph <;> cases s.ds <;> simp [readStep, callPrim_ne_fault]
  | tilt a z => exact ha _ a z
  | awe a z => exact ha _ a z
  | regwrFrame a v => exact hw a v
  | initWrite1 => exact hi 0
  | initWrite2 => exact hi 1
  | initWrite3 => exact hi 2
  | initWrite4 => exact hi 3
  | regrdSelect a => exact hr a
  | readSelect =>
    simp only [exec, execReadSelect, readStep]
    split
    · exact callPrim_ne_fault _ _ _ f
    · exact hr _
  | readData d =>
    simp only [exec, execReadData]
    cases s.ph <;> simp
  | txqWrite a v => exact hw a v
  | txqWriteThenRead a => exact hr a

/-- Exactly the edges that fault: the two at which an element without a value is read, which R20 calls a
model fault. -/
theorem edge_fault_iff {s : State} {f : Fault} :
    edge s = .fault f ↔ s.pins.rst = false ∧
      ((f = .absentRead .cmdr ∧ s.ph = .ang ∧ s.cmdr = none) ∨
       (f = .absentRead .rspr ∧ s.ph = .resp ∧ s.rspValid = true ∧ s.pins.rspReady = true ∧
         s.rspr = none)) := by
  have hrun (w : Encoded) : runWord w s ≠ .fault f := by
    unfold runWord
    split
    · exact exec_ne_fault _ s f
    · simp
  unfold edge
  cases hr : s.pins.rst with
  | true =>
    unfold resetEdge
    cases s.ph <;> simp
  | false =>
    cases hp : s.ph with
    | idle =>
      cases hc : s.pins.cmd with
      | some c => simp [fetchWord, hp, hc, hrun]
      | none => cases hq : s.pins.prim <;> simp [fetchWord, hp, hc, hq, quietEdge, hrun]
    | init k => simp [fetchWord, hp, hrun]
    | rd => cases hx : txaData (transportAnswer s) <;> simp [fetchWord, hp, hx, hrun]
    | ang => cases hc : s.cmdr <;> simp [fetchWord, hp, hc, quietEdge, hrun, eq_comm (a := f)]
    | resp =>
      cases hv : s.rspValid <;> cases hy : s.pins.rspReady <;> cases hs : s.rspr <;>
        simp [fetchWord, hp, quietEdge, respEdge, hv, hy, hs, eq_comm (a := f)]

/-- A step is an edge, after which the environment drives its next values. -/
theorem step_cases {s t : State} (h : step s = .next t) : ∃ u, EdgeCase s u ∧ t = nextEdge u := by
  obtain ⟨u, hu, rfl⟩ := onNext_eq_next h
  exact ⟨u, edge_cases hu, rfl⟩

/-- One step of a run. -/
theorem runSteps_succ (n : Nat) {s t : State} (h : step s = .next t) :
    runSteps (n + 1) s = runSteps n t := by
  simp [runSteps, h]

/-- A run in two parts. -/
theorem runSteps_add (m n : Nat) {s t : State} (h : runSteps m s = .next t) :
    runSteps (m + n) s = runSteps n t := by
  induction m generalizing s with
  | zero =>
    simp only [runSteps, Host.Outcome.next.injEq] at h
    simp [h]
  | succ m ih =>
    cases hs : step s with
    | next u =>
      rw [runSteps_succ m hs] at h
      rw [Nat.succ_add, runSteps_succ _ hs]
      exact ih h
    | fault r => simp [runSteps, hs] at h
    | refused r => simp [runSteps, hs] at h

/-- The run is the host's run of this machine. -/
theorem core_run (n : Nat) : ∀ s : core.State, Host.Core.run core n s = runSteps n s := by
  induction n with
  | zero => exact fun _ => rfl
  | succ n ih =>
    intro s
    have hstep : core.step s = step s := rfl
    cases hs : step s with
    | next t =>
      rw [runSteps_succ n hs, ← ih t, Host.Core.run]
      simp only [hstep, hs]
    | fault r =>
      rw [Host.Core.run]
      simp only [hstep, hs, runSteps]
      rfl
    | refused r =>
      rw [Host.Core.run]
      simp only [hstep, hs, runSteps]
      rfl

end Sys2Proof.Machine
end

