-- ==== Sys2Proof/Tests/Slice0.lean ====
section
/-! SUPPORT. Tests: words written out from spec/30_encoding.md and spec/95_test_vectors.md, the worked examples
of the spec, and for each obligation with hypotheses a concrete state and operands that meet them. -/

namespace Sys2Proof.Tests

open Sys2Proof Sys2Proof.Machine

/-- A state after reset, in another phase and driver state, at an edge with the given inputs. -/
def stateIn (p : Phase) (d : DriverState) (pins : Pins) : State :=
  { State.reset with ph := p, ds := d, pins := pins }

/-- The next state, if there is one. -/
def nextOf : Result → Option State
  | .next s => some s
  | .fault _ => none
  | .refused _ => none

/-- The response word after a step, if there is one. -/
def wordAfter (r : Result) : Option RspWord := ((nextOf r).bind (·.rspr)).bind responseWord

/-- `ok` = 1 with no data, and `ok` = 0 (V-TX). -/
def okWord : TxaWord := 0x1000000000000
def failWord : TxaWord := 0x0000000000000

def answer (w : TxaWord) : Pins := { txa := some w }
def present (c : CmdWord) : Pins := { cmd := some c }

/-! ## Well-formedness: an ill-formed term for each check -/

theorem test_wf_refuses_init_frame :
    (Instr.regwrFrame 0x2C 0x0A).illFormed = some .isInitFrame ∧
    (Instr.regwrFrame 0x2D 0x08).illFormed = some .isInitFrame ∧
    (Instr.regwrFrame 0x2E 0x00).illFormed = some .isInitFrame ∧
    (Instr.regwrFrame 0x31 0x00).illFormed = some .isInitFrame := by decide

theorem test_wf_refuses_read_select :
    (Instr.regrdSelect 0x32).illFormed = some .isReadSelect := by decide

/-- Also the witness of `DecodeInvertsEncode`. -/
theorem test_wf_accepts :
    (Instr.regwrFrame 0x2D 0x09).WellFormed ∧ (Instr.regrdSelect 0x33).WellFormed ∧
    (Instr.tilt 400 200).WellFormed ∧ (Instr.readData ⟨1, 2, 3, 4, 5, 6⟩).WellFormed := by decide

/-! ## Decoding: words from R82, R88, R91, R92 and from V-AC, V-SQ, V-TX, P4 -/

theorem test_decode_init : decode (.cmd 0x00000000000) = .ok (.init 0) := by decide
theorem test_decode_read : decode (.cmd 0x1ABCDE12345) = .ok (.read 0xABCDE12345) := by decide
theorem test_decode_tilt : decode (.cmd 0x200190000C8) = .ok (.tilt 400 200) := by decide
theorem test_decode_awe : decode (.cmd 0x3FFFF800000) = .ok (.awe (-8) 0) := by decide
theorem test_decode_init_write1 : decode (.busW2 0x2C0A) = .ok .initWrite1 := by decide
theorem test_decode_init_write2 : decode (.busW2 0x2D08) = .ok .initWrite2 := by decide
theorem test_decode_init_write3 : decode (.busW2 0x2E00) = .ok .initWrite3 := by decide
theorem test_decode_init_write4 : decode (.busW2 0x3100) = .ok .initWrite4 := by decide
theorem test_decode_write_frame : decode (.busW2 0x2D09) = .ok (.regwrFrame 0x2D 0x09) := by decide
theorem test_decode_read_select : decode (.busSel1 0x32) = .ok .readSelect := by decide
theorem test_decode_select : decode (.busSel1 0x33) = .ok (.regrdSelect 0x33) := by decide
theorem test_decode_data :
    decode (.busData6 0x640000001900) = .ok (.readData ⟨0x64, 0x00, 0x00, 0x00, 0x19, 0x00⟩) := by
  decide
theorem test_decode_txq_write : decode (.txq 0x02C0A) = .ok (.txqWrite 0x2C 0x0A) := by decide
theorem test_decode_txq_read : decode (.txq 0xE3200) = .ok (.txqWriteThenRead 0x32) := by decide
theorem test_decode_txq_rejects :
    decode (.txq 0x12C0A) = .error .writeWithReadLength ∧
    decode (.txq 0xF3200) = .error .readLengthNotSix ∧
    decode (.txq 0xE3201) = .error .readWithSecondByte := by decide

/-- Every bit of a data frame reaches its byte: the frame 1 2 3 4 5 6. -/
theorem test_decode_data_order :
    decode (.busData6 0x010203040506) = .ok (.readData ⟨1, 2, 3, 4, 5, 6⟩) := by decide

/-- The opcode table's numbering. -/
theorem test_decode_table :
    decodeTableWord 48 0x200190000C8 = some (.tilt 400 200) ∧
    decodeTableWord 16 0x2D08 = some .initWrite2 ∧ decodeTableWord 8 0x32 = some .readSelect ∧
    decodeTableWord 24 0xE3200 = some (.txqWriteThenRead 0x32) ∧
    decodeTableWord 48 0x640000001900 = some (.readData ⟨0x64, 0, 0, 0, 0x19, 0⟩) ∧
    decodeTableWord 24 0x12C0A = none := by decide

/-- R95's spelling. -/
theorem test_asm : asm (.tilt (-400) 200) = some "TILT -400, 200" := by decide

/-- The texts of P1's READ, and of a failed write (R33, R95). -/
theorem test_text :
    traceText (.done (.readOk 0x32 ⟨0x64, 0, 0, 0, 0x19, 0⟩)) =
      "WR[32],6 -> Ok[64 00 00 00 19 00]" ∧
    traceText (.done (.writeFail 0x2C 0x0A)) = "W[2C 0A] -> Fail" ∧
    responseText 0b01 (.ok 0x0FFE70FFF9C00464) = "=> OK x=-400 y=-100 z=1124" := by decide

/-! ## The channels' words: V-TX, and the response words of V-RD and V-AC -/

theorem test_txq_words :
    requestWord (.write 0x31 0x00) = 0x03100 ∧ requestWord (.writeThenRead 0x32) = 0xE3200 := by decide

/-- The response words of V-SQ rows 6 and 7: status in bits 61:60, and no payload for an error. -/
theorem test_response_words :
    responseWord (.ok 0x00019000000000C8) = some 0x00019000000000C8 ∧
    responseWord (.error .notInitialized) = none ∧ statusCode (.error .notInitialized) = 0b10 := by
  decide

theorem test_txa_words :
    txaFrame 0x10100FFE7FF9C = ⟨0x9C, 0xFF, 0xE7, 0xFF, 0x00, 0x01⟩ ∧
    txaOk 0x10100FFE7FF9C = true ∧ txaOk failWord = false ∧
    txaOfFrame ⟨0x34, 0x12, 0xCD, 0xAB, 0x80, 0x00⟩ = 0x10080ABCD1234 := by decide

/-! ## Frame decoder and converter: V-FD, V-CV -/

theorem test_decode_frame :
    decodeFrame ⟨0x34, 0x12, 0xCD, 0xAB, 0x80, 0x00⟩ = ⟨4660, -21555, 128⟩ ∧
    decodeFrame ⟨0x00, 0x80, 0xFF, 0x7F, 0x00, 0x00⟩ = ⟨-32768, 32767, 0⟩ := by decide

theorem test_convert :
    convert 25 100 = 200 ∧ convert (-24) 100 = 0 ∧ convert (-23) 100 = 8 ∧ convert 1 1 = 5 ∧
    convert (-1) (-1) = -5 ∧ convert 1 (-8) = 0 ∧ convert (-32768) (-32768) = -163840 := by decide

/-! ## Meanings: V-SQ, V-RD, V-AC and the examples of R111, R112 -/

/-- ACCEPT-INIT puts the first request word on the channel. -/
theorem test_init_requests_first_write :
    (nextOf (exec (.init 0) State.reset)).bind txqBus = some 0x02C0A := by decide

/-- R88: the request stays on the channel until `TXQ_READY` is 1, and an answer offered then is not taken. -/
theorem test_request_transfer :
    (nextOf (step (startInitWrite 0 (stateIn .idle .uninitialized (answer okWord))))).map
      (fun t => (txqBus t, t.ph, t.trace)) = some (some 0x02C0A, .init 0, []) ∧
    (nextOf (step (startInitWrite 0 (stateIn .idle .uninitialized { txqReady := true })))).map
      (fun t => (txqBus t, t.ph, t.inFlight)) =
      some (none, .init 0, some (.write 0x2C 0x0A)) := by decide

/-- V-SQ row 1: in INIT0 the answer Ok leads to the second request word. -/
theorem test_init_write1 :
    (nextOf (exec .initWrite1 (stateIn (.init 0) .uninitialized (answer okWord)))).bind
      txqBus = some 0x02D08 := by decide

/-- V-SQ row 3: the second write fails. -/
theorem test_init_write2_fails :
    (nextOf (exec .initWrite2 (stateIn (.init 1) .uninitialized (answer failWord)))).map
      (fun t => (t.trace, t.rspr, t.ds)) =
      some ([.writeFail 0x2D 0x08], some (.error .transportError), .uninitialized) := by decide

theorem test_init_write3 :
    (nextOf (exec .initWrite3 (stateIn (.init 2) .uninitialized (answer okWord)))).bind txqBus =
      some 0x03100 := by decide

/-- V-SQ row 1: the last write answered Ok. -/
theorem test_init_write4 :
    (nextOf (exec .initWrite4 (stateIn (.init 3) .uninitialized (answer okWord)))).map
      (fun t => (t.ds, t.ph)) = some (.ready, .resp) ∧
    wordAfter (exec .initWrite4 (stateIn (.init 3) .uninitialized (answer okWord))) =
      some 0x0000000000000000 := by decide

/-- V-SQ row 12: READ before INIT, with ignored bits set. -/
theorem test_read_not_initialized :
    (nextOf (exec (.read 0xABCDE12345) State.reset)).map (fun t => (t.rspr, t.trace, t.inFlight)) =
      some (some (.error .notInitialized), [], none) := by decide

/-- V-RD: the frame [02 00 FE FF E6 FF], as the Transport's answer word of P4. -/
theorem test_read_sample :
    wordAfter (exec (.read 0) (stateIn .rd .ready (answer 0x1FFE6FFFE0002))) =
      some 0x000008FFFF800000 := by decide

/-- V-RD: the frame [34 12 CD AB 80 00]. -/
theorem test_read_data :
    wordAfter (exec (.readData ⟨0x34, 0x12, 0xCD, 0xAB, 0x80, 0x00⟩) (stateIn .rd .ready {})) =
      some 0x0048D0EAF3400264 := by decide

/-- V-SQ row 8. -/
theorem test_read_select_fails :
    (nextOf (exec .readSelect (stateIn .rd .ready (answer failWord)))).map
      (fun t => (t.trace, t.rspr, t.ds, t.frame)) =
      some ([.readFail 0x32], some (.error .transportError), .ready, none) := by decide

/-- V-AC: z = 0 gives +90000 for a negative numerator too. -/
theorem test_tilt_saturates :
    wordAfter (exec (.tilt (-400) 0) (stateIn .ang .uninitialized {})) =
      some 0x0000000000015F90 := by decide

/-- V-AC: z = 0 is tested before a = 0; a = 0 gives 0. -/
theorem test_awe_exact :
    wordAfter (exec (.awe 0 0) (stateIn .ang .ready {})) = some 0x0000000000015F90 ∧
    wordAfter (exec (.awe 0 (-200)) (stateIn .ang .ready {})) = some 0 := by decide

/-- A negative angle fills its 18-bit field only (V-AC: -63435 is 0x30835). -/
theorem test_negative_angle_field : anglePayload (-63435) = 0x30835 := by decide

/-- The example of R111, on the exposed primitive. -/
theorem test_write_frame :
    (nextOf (exec (.regwrFrame 0x2D 0x09) (stateIn .idle .ready (answer okWord)))).map
      (fun t => (t.trace, t.ph, t.rspr)) = some ([.writeOk 0x2D 0x09], .idle, none) := by decide

theorem test_txq_write_fails :
    (nextOf (exec (.txqWrite 0x2D 0x09) (stateIn .idle .ready (answer failWord)))).map
      (fun t => (t.trace, t.ph, t.rspr)) =
      some ([.writeFail 0x2D 0x09], .resp, some (.error .transportError)) := by decide

/-- The example of R112, on the exposed primitive at another address. -/
theorem test_select_frame :
    (nextOf (exec (.regrdSelect 0x2C) (stateIn .idle .ready (answer 0x1001900000064)))).map
      (fun t => (t.trace, t.ph)) = some ([.readOk 0x2C ⟨0x64, 0, 0, 0, 0x19, 0⟩], .idle) := by decide

theorem test_txq_read :
    (nextOf (exec (.txqWriteThenRead 0x32) (stateIn .idle .ready (answer 0x1001900000064)))).map
      (fun t => (t.trace, t.ph)) = some ([.readOk 0x32 ⟨0x64, 0, 0, 0, 0x19, 0⟩], .idle) := by decide

/-- Out-of-range operands (R194). -/
theorem test_range_check :
    regwr 256 0 (some okWord) State.reset = .raised .invalidRegisterValue State.reset ∧
    regwr 0 (-1) none State.reset = .raised .invalidRegisterValue State.reset := by
  exact ⟨rfl, rfl⟩

/-- P6. -/
theorem test_second_init_refused :
    step (stateIn .idle .ready (present 0x00000000000)) = .refused .initWhenReady := rfl

/-- V-SQ row 13: the trace of an unanswered READ ends in a pending entry. -/
theorem test_pending :
    (nextOf (step (stateIn .idle .ready (present 0x10000000000)))).map eventTrace =
      some [.pending (.writeThenRead 0x32)] := by decide

/-! ## Witnesses: a state and operands that meet the hypotheses of each obligation that has some -/

theorem witness_encode_inverts_decode : ∃ w i, decode w = .ok i := ⟨.txq 0xE3200, _, rfl⟩

theorem witness_opcode_map :
    0x0FFFFFFFFFF#42 &&& 0x30000000000#42 = 0x00000000000#42 ∧
    0x1FFFFFFFFFF#42 &&& 0x30000000000#42 = 0x10000000000#42 ∧
    0x2FFFFFFFFFF#42 &&& 0x30000000000#42 = 0x20000000000#42 ∧
    0x3FFFFFFFFFF#42 &&& 0x30000000000#42 = 0x30000000000#42 := by decide

theorem witness_step_runs :
    ∃ s w i, s.pins.rst = false ∧ fetchWord s = some w ∧ decode w = .ok i :=
  ⟨stateIn .idle .ready (present 0x200190000C8), .cmd 0x200190000C8, .tilt 400 200,
    by decide, by decide, by decide⟩

theorem witness_phase_idle :
    let s := stateIn .idle .ready (present 0x10000000000)
    s.pins.rst = false ∧ s.ph = .idle ∧ s.pins.cmd = some 0x10000000000 ∧
      decode (.cmd 0x10000000000) = .ok (.read 0) := by decide

theorem witness_phase_init :
    ∀ k : Fin 4, (stateIn (.init k) .uninitialized {}).pins.rst = false ∧
      (stateIn (.init k) .uninitialized {}).ph = .init k := by decide

theorem witness_phase_rd_data :
    let s := stateIn .rd .ready (answer 0x1001900000064)
    s.pins.rst = false ∧ s.ph = .rd ∧ s.txqValid = false ∧
      txaData s.pins.txa = some ⟨0x64, 0, 0, 0, 0x19, 0⟩ := by decide

theorem witness_phase_rd_select :
    (stateIn .rd .ready (answer failWord)).ph = .rd ∧
    txaData (stateIn .rd .ready (answer failWord)).pins.txa = none ∧
    txaData (stateIn .rd .ready {}).pins.txa = none ∧
    { stateIn .rd .ready (answer okWord) with txqValid := true }.txqValid = true := by decide

theorem witness_phase_ang :
    let s := { stateIn .ang .ready {} with cmdr := some 0x300000000C8 }
    s.pins.rst = false ∧ s.ph = .ang ∧ s.cmdr = some 0x300000000C8 ∧
      decode (.cmd 0x300000000C8) = .ok (.awe 0 200) := by decide

theorem witness_phase_quiet :
    let s := stateIn .idle .ready {}
    s.pins.rst = false ∧ s.ph = .idle ∧ s.pins.cmd = none ∧ s.pins.prim = none := by decide

theorem witness_placed : decodeTableWord 16 0x3100 = some .initWrite4 := by decide

theorem witness_hang :
    let s := { stateIn .rd .ready {} with inputs := [{ rspReady := true }] }
    waitsForAnswer s.ph = true ∧ Quiet s.pins ∧ ∀ p ∈ s.inputs, Quiet p := by
  refine ⟨rfl, ⟨rfl, rfl⟩, ?_⟩
  simp [Quiet]

theorem witness_busy : (stateIn .resp .ready {}).ph ≠ .idle := by decide

theorem witness_delivered :
    let s := { stateIn .resp .ready { rspReady := true } with
      rspValid := true, rspr := some (.ok 0x64) }
    s.pins.rst = false ∧ s.ph = .resp ∧ s.rspValid = true ∧ s.pins.rspReady = true ∧
      s.rspr = some (.ok 0x64) := by decide

theorem witness_held :
    let s := { stateIn .resp .ready {} with rspValid := true, rspr := some (.ok 0x64) }
    s.pins.rst = false ∧ s.ph = .resp ∧ s.pins.rspReady = false := by decide

theorem witness_reset :
    (stateIn .idle .ready { rst := true }).pins.rst = true ∧
    (stateIn .idle .ready { rst := true }).ph = .idle ∧
    (stateIn .rd .ready { rst := true }).ph ≠ .idle := by decide

theorem witness_accept :
    (stateIn .idle .uninitialized {}).ph = .idle ∧
    (stateIn .idle .uninitialized {}).ds = .uninitialized ∧
    (stateIn .idle .ready {}).ph = .idle ∧ (stateIn .idle .ready {}).ds = .ready := by decide

/-- For the statements on a request on the channel. -/
theorem witness_request :
    let s := startInitWrite 3 (stateIn .idle .uninitialized { txqReady := true })
    let u := startInitWrite 3 (stateIn .idle .uninitialized {})
    s.pins.rst = false ∧ waitsForAnswer s.ph = true ∧ s.txqValid = true ∧ s.pins.txqReady = true ∧
      u.pins.rst = false ∧ waitsForAnswer u.ph = true ∧ u.txqValid = true ∧
      u.pins.txqReady = false := by decide

/-- For the statements on the answers Ok and Fail in INIT0 to INIT3, in RD, and in IDLE. -/
theorem witness_answers :
    ∀ p ∈ [Phase.init 0, .init 1, .init 2, .init 3, .rd, .idle],
      (stateIn p .ready (answer okWord)).ph = p ∧
      (stateIn p .ready (answer okWord)).txqValid = false ∧
      (stateIn p .ready (answer failWord)).txqValid = false ∧
      (stateIn p .ready (answer okWord)).pins.txa = some okWord ∧ txaOk okWord = true ∧
      (stateIn p .ready (answer failWord)).pins.txa = some failWord ∧ txaOk failWord = false := by
  decide

theorem witness_read_answer :
    let s := stateIn .rd .ready (answer 0x1001900000064)
    s.ph = .rd ∧ s.txqValid = false ∧ s.pins.txa =
      some (1#1 ++ (0x00#8 ++ (0x19#8 ++ (0x00#8 ++ (0x00#8 ++ (0x00#8 ++ 0x64#8)))))) := by decide

/-- One wait: an edge before the request is taken, at which an answer is offered in vain, the edge that takes
it, a quiet edge, the answer. -/
def waitFor (w : TxaWord) : Wait :=
  ⟨[answer 0x1FFFFFFFFFFFF], { txqReady := true }, [{ rspReady := true }], answer w, w⟩

theorem waitFor_ok (w : TxaWord) : (waitFor w).Ok := by
  simp [waitFor, Wait.Ok, Takes, Quiet, Answers, answer]

/-- INIT presented, and then the answers of these waits. -/
def initRun (ws : List Wait) : State :=
  { stateIn .idle .uninitialized (present 0x00000000000) with inputs := waitEdges ws }

theorem initRun_ok (ws : List TxaWord) :
    let s := initRun (ws.map waitFor)
    s.ph = .idle ∧ s.ds = .uninitialized ∧ s.pins.rst = false ∧
      s.pins.cmd = some (0b00#2 ++ (0 : BitVec 40)) ∧
      s.inputs = waitEdges (ws.map waitFor) ++ [] ∧ ∀ w ∈ ws.map waitFor, w.Ok := by
  refine ⟨rfl, rfl, rfl, rfl, by simp [initRun], ?_⟩
  intro w hw
  obtain ⟨x, _, rfl⟩ := List.mem_map.1 hw
  exact waitFor_ok x

/-- With `initRun_ok`: four answers Ok, and a first failure at each of the four writes. -/
theorem witness_whole_init :
    (([okWord, okWord, okWord, okWord].map waitFor).map fun w => txaOk w.word) =
      [true, true, true, true] ∧
    ∀ k : Fin 4, (((List.replicate k.val okWord ++ [failWord]).map waitFor).map fun w => txaOk w.word) =
      List.replicate k.val true ++ [false] := by decide

theorem witness_whole_read (w : TxaWord) :
    let s := { stateIn .idle .ready (present 0x10000000000) with inputs := waitEdges [waitFor w] }
    s.ph = .idle ∧ s.ds = .ready ∧ s.pins.rst = false ∧
      s.pins.cmd = some (0b01#2 ++ (0 : BitVec 40)) ∧ s.inputs = waitEdges [waitFor w] ++ [] ∧
      (waitFor w).Ok :=
  ⟨rfl, rfl, rfl, rfl, by simp, waitFor_ok w⟩

theorem witness_whole_read_answers :
    txaOk (waitFor 0x1001900000064).word = true ∧ txaOk (waitFor failWord).word = false := by decide

theorem witness_angle_phases :
    (stateIn .idle .ready {}).ph = .idle ∧ (stateIn .ang .ready {}).ph = .ang := by decide

theorem witness_whole_angle :
    let s := { stateIn .idle .ready (present 0x200190000C8) with inputs := [{}] }
    s.ph = .idle ∧ s.pins.rst = false ∧ s.pins.cmd = some (0b10#2 ++ (400#20 ++ 200#20)) ∧
      s.inputs = [({} : Pins)] ∧ ({} : Pins).rst = false := by decide

/-- Non-zero operands, at the ends of their range, with products of both signs. -/
theorem witness_angle_operands :
    (-524288 : Comp) ≠ 0 ∧ (524287 : Comp) ≠ 0 ∧ (1 : Comp) ≠ 0 ∧
    0 < (-524288 : Comp).toInt * (-1 : Comp).toInt ∧
    (-524288 : Comp).toInt * (524287 : Comp).toInt < 0 := by decide

/-- An exact angle of one unit or more: that of (1, 1) is just below 45000. -/
theorem witness_angle_not_small :
    (1 : Comp) ≠ 0 ∧ 1 ≤ |Config.thetaMdeg (1 : Comp).toInt (1 : Comp).toInt| := by
  refine ⟨by decide, ?_⟩
  have h : Config.thetaMdeg (1 : Comp).toInt (1 : Comp).toInt =
      1000 * (Real.pi / 4 * 360 / (2 * 3.14159265359)) := by
    simp [Config.thetaMdeg, Config.piBz_real]
  rw [h]
  refine le_trans ?_ (le_abs_self _)
  have := Real.pi_gt_three
  norm_num
  linarith

theorem witness_decode_triples :
    decodeFrame ⟨0x00, 0x80, 0xFF, 0x7F, 0xFF, 0xFF⟩ = ⟨-32768, 32767, -1⟩ := by decide

theorem witness_decode_pairs :
    let f : Frame := ⟨0xFF, 0x7F, 0, 0, 0, 0⟩
    let g : Frame := ⟨0xFF, 0x7F, 1, 0x80, 0, 0⟩
    f.b0 = g.b0 ∧ f.b1 = g.b1 ∧ f.b4 = g.b4 ∧ f.b5 = g.b5 ∧ f ≠ g := by decide

/-- Both sides of the strict threshold: 4 * 1 + 0 and 4 * 1 + 1. -/
theorem witness_convert_formula : |4 * (1 : Int) + 0| < 5 ∧ 5 ≤ |4 * (1 : Int) + 1| ∧
    |addOffset (scale 1) 1| = 5 := by decide

theorem witness_range_check : (256 : Int) > 255 ∧ (-1 : Int) < 0 := by decide

theorem witness_unanswered :
    (startInitWrite 0 (stateIn .idle .ready (answer okWord))).txqValid = true ∧
    (stateIn .idle .ready {}).pins.txa = none ∧ (stateIn .idle .ready {}).ph = .idle ∧
    (stateIn (.init 3) .uninitialized {}).ph = .init 3 ∧ (stateIn .rd .ready {}).ph = .rd := by decide

/-- One phase out of turn for each clause of `OutOfTurnIsRefused`. -/
theorem witness_out_of_turn :
    Phase.resp ≠ .idle ∧ Phase.resp ≠ .rd ∧ Phase.resp ≠ .ang ∧ (∀ k, Phase.resp ≠ .init k) ∧
    Phase.idle ≠ .rd ∧ Phase.init 1 ≠ .init 0 := by
  refine ⟨by decide, by decide, by decide, by decide, by decide, by decide⟩

/-- A state in the middle of a READ that meets the invariant, and its step. -/
def midReadAt (p : Pins) : State :=
  { stateIn .rd .ready p with
    cmdr := some 0x10000000000, inFlight := some (.writeThenRead 0x32), trace := initOkEvents 4 }

theorem midReadAt_inv (p : Pins) : Inv (midReadAt p) where
  rspValid_iff := by simp [midReadAt, stateIn, State.reset]
  rspr_held := by simp [midReadAt, stateIn]
  frame_transient := by simp [midReadAt, stateIn, State.reset]
  inFlight_eq := rfl
  txqValid_waits := fun _ => rfl
  init_prefix := by simp [midReadAt, stateIn]
  rd_ready := fun _ => rfl
  ready_configured := fun _ => List.infix_refl _
  ang_command := by simp [midReadAt, stateIn]
  no_invalid := by simp [midReadAt, stateIn, State.reset]
  no_invalid_delivered := by simp [midReadAt, stateIn, State.reset]

/-- The same at the edge at which the Transport answers. -/
abbrev midRead : State := midReadAt (answer 0x1001900000064)

theorem witness_step_keeps_invariant : ∃ t, Inv midRead ∧ step midRead = .next t :=
  ⟨_, midReadAt_inv _, rfl⟩

/-- The same READ before the Transport has taken its request. -/
theorem witness_request_shown : txqBus { midRead with txqValid := true } = some 0xE3200 := by decide

/-- The Block in IDLE after a successful INIT, at an edge with these inputs. -/
def idleReady (p : Pins) : State :=
  { stateIn .idle .ready p with trace := initOkEvents 4 }

theorem idleReady_inv (p : Pins) : Inv (idleReady p) where
  rspValid_iff := by simp [idleReady, stateIn, State.reset]
  rspr_held := by simp [idleReady, stateIn]
  frame_transient := by simp [idleReady, stateIn, State.reset]
  inFlight_eq := rfl
  txqValid_waits := by simp [idleReady, stateIn, State.reset]
  init_prefix := by simp [idleReady, stateIn]
  rd_ready := by simp [idleReady, stateIn]
  ready_configured := fun _ => List.infix_refl _
  ang_command := by simp [idleReady, stateIn]
  no_invalid := by simp [idleReady, stateIn, State.reset]
  no_invalid_delivered := by simp [idleReady, stateIn, State.reset]

/-- With `idleReady_inv` and `midReadAt_inv`: the three stops of a run, each at its condition. -/
theorem witness_stops :
    step (idleReady (present 0x0FFFFFFFFFF)) = .refused .initWhenReady ∧
    step (midReadAt { rst := true }) = .refused .resetWhileBusy ∧
    step (idleReady { prim := some (.txq 0x12C0A) }) =
      .refused (.illegalRequest .writeWithReadLength) := ⟨rfl, rfl, rfl⟩

/-- The trace grows in RD, and in IDLE by a word on the model's own port. -/
theorem witness_trace_grows :
    (nextOf (step midRead)).map (fun t => t.trace.length) = some 5 ∧
    (nextOf (step (stateIn .idle .ready
      { prim := some (.busW2 0x2D09), txa := some okWord }))).map (fun t => t.trace) =
      some [.writeOk 0x2D 0x09] := by decide

theorem witness_table_step :
    midRead.pins.rst = false ∧ midRead.ph ≠ .idle ∧ (∃ t, TableStep midRead t) ∧
      ∃ t, edge midRead = .next t :=
  ⟨rfl, by decide, ⟨_, .readOk 0x1001900000064 rfl rfl rfl rfl⟩, ⟨_, rfl⟩⟩

theorem witness_exec_next :
    (∃ t, exec (.tilt 0 0) (stateIn .ang .ready {}) = .next t) ∧
    (∃ t, exec (.awe 0 0) (stateIn .idle .ready {}) = .next t) ∧
    (∃ t, exec .readSelect midRead = .next t) ∧
    (∃ t, exec .initWrite4 (stateIn .idle .ready (answer okWord)) = .next t) :=
  ⟨⟨_, rfl⟩, ⟨_, rfl⟩, ⟨_, rfl⟩, ⟨_, rfl⟩⟩

end Sys2Proof.Tests
end

section
/-! SUPPORT. What an edge does in each phase: the word it works on, its next state, and exactly where it
stops; then what every step keeps. -/

namespace Sys2Proof.Machine

/-! ## The word an edge works on -/

theorem edge_of_fetchWord {s : State} {w : Encoded} (hr : s.pins.rst = false)
    (hw : fetchWord s = some w) : edge s = runWord w s := by
  simp [edge, hr, hw]

theorem edge_of_no_fetchWord {s : State} (hr : s.pins.rst = false) (hw : fetchWord s = none) :
    edge s = quietEdge s := by
  simp [edge, hr, hw]

theorem runWord_of_decode {w : Encoded} {i : Instr} (hi : decode w = .ok i) (s : State) :
    runWord w s = exec i s := by
  simp [runWord, hi]

/-- At an edge without reset the step is the meaning of the word at hand. -/
theorem step_of_fetchWord {s : State} {w : Encoded} {i : Instr} (hr : s.pins.rst = false)
    (hw : fetchWord s = some w) (hi : decode w = .ok i) : step s = onNext nextEdge (exec i s) := by
  rw [step, edge_of_fetchWord hr hw, runWord_of_decode hi]

/-! The word of each phase (R80, R91, R92, R176). -/

theorem fetchWord_idle_cmd {s : State} {c : CmdWord} (hp : s.ph = .idle)
    (hc : s.pins.cmd = some c) : fetchWord s = some (.cmd c) := by
  simp [fetchWord, hp, hc]

theorem fetchWord_idle_prim {s : State} (hp : s.ph = .idle) (hc : s.pins.cmd = none) :
    fetchWord s = s.pins.prim.map primEncoded := by
  simp [fetchWord, hp, hc]

theorem fetchWord_init {s : State} {k : Fin 4} (hp : s.ph = .init k) :
    fetchWord s = some (.busW2 (initFrameWord k)) := by
  simp [fetchWord, hp]

theorem fetchWord_rd_data {s : State} {f : Frame} (hp : s.ph = .rd)
    (hf : txaData (transportAnswer s) = some f) :
    fetchWord s = some (.busData6 (patternOfFrame f)) := by
  simp [fetchWord, hp, hf]

theorem fetchWord_rd_select {s : State} (hp : s.ph = .rd)
    (hf : txaData (transportAnswer s) = none) : fetchWord s = some (.busSel1 Config.dataBase) := by
  simp [fetchWord, hp, hf]

theorem fetchWord_ang {s : State} (hp : s.ph = .ang) : fetchWord s = s.cmdr.map .cmd := by
  simp [fetchWord, hp]

theorem fetchWord_resp {s : State} (hp : s.ph = .resp) : fetchWord s = none := by
  simp [fetchWord, hp]

/-- The frame in flight in INITk is that of INIT's write `k`+1 (R91). -/
theorem decode_initFrameWord (k : Fin 4) : decode (.busW2 (initFrameWord k)) = .ok (initInstr k) := by
  revert k
  decide

theorem decode_dataPattern (f : Frame) : decode (.busData6 (patternOfFrame f)) = .ok (.readData f) := by
  rw [decode, frameOfPattern_patternOfFrame]

theorem decode_dataBase : decode (.busSel1 Config.dataBase) = .ok .readSelect := rfl

theorem transportAnswer_of_transferred {s : State} (hq : s.txqValid = false) :
    transportAnswer s = s.pins.txa := by
  simp [transportAnswer, hq]

/-- No data frame is taken while the request is on the channel, or without an answer Ok. -/
theorem txaData_transportAnswer_eq_none {s : State}
    (h : s.txqValid = true ∨ txaData s.pins.txa = none) : txaData (transportAnswer s) = none := by
  unfold transportAnswer
  split
  · rfl
  · rename_i hq
    exact h.resolve_left hq

/-! ## What an edge does in each phase -/

theorem edge_reset {s : State} (hr : s.pins.rst = true) : edge s = resetEdge s := by
  simp [edge, hr]

theorem resetEdge_idle {s : State} (hp : s.ph = .idle) : resetEdge s = .next (takeReset s) := by
  simp [resetEdge, hp]

theorem resetEdge_busy {s : State} (hp : s.ph ≠ .idle) : resetEdge s = .refused .resetWhileBusy := by
  unfold resetEdge
  cases h : s.ph with
  | idle => exact absurd h hp
  | init k => rfl
  | rd => rfl
  | ang => rfl
  | resp => rfl

theorem edge_idle_cmd {s : State} {c : CmdWord} (hr : s.pins.rst = false) (hp : s.ph = .idle)
    (hc : s.pins.cmd = some c) : edge s = exec (decodeCmd c) s := by
  rw [edge_of_fetchWord hr (fetchWord_idle_cmd hp hc), runWord_of_decode rfl]

theorem edge_idle_prim {s : State} {q : PrimWord} (hr : s.pins.rst = false) (hp : s.ph = .idle)
    (hc : s.pins.cmd = none) (hq : s.pins.prim = some q) : edge s = runWord (primEncoded q) s :=
  edge_of_fetchWord hr (by rw [fetchWord_idle_prim hp hc, hq, Option.map_some])

theorem edge_idle_nothing {s : State} (hr : s.pins.rst = false) (hp : s.ph = .idle)
    (hc : s.pins.cmd = none) (hq : s.pins.prim = none) : edge s = .next s := by
  have hw : fetchWord s = none := by rw [fetchWord_idle_prim hp hc, hq, Option.map_none]
  rw [edge_of_no_fetchWord hr hw]
  simp [quietEdge, hp]

/-- In INITk the frame of write `k`+1 is INIT's own write. -/
theorem exec_initInstr {s : State} {k : Fin 4} (hp : s.ph = .init k) :
    exec (initInstr k) s = initWriteStep k s := by
  have hf : exec (initInstr k) s = initFrame k s := by fin_cases k <;> rfl
  rw [hf, initFrame, if_pos hp]

theorem edge_init {s : State} {k : Fin 4} (hr : s.pins.rst = false) (hp : s.ph = .init k) :
    edge s = initWriteStep k s := by
  rw [edge_of_fetchWord hr (fetchWord_init hp), runWord_of_decode (decode_initFrameWord k),
    exec_initInstr hp]

theorem txaData_eq_some_iff {a : Option TxaWord} {f : Frame} :
    txaData a = some f ↔ ∃ w, a = some w ∧ txaOk w = true ∧ txaFrame w = f := by
  cases a <;> simp [txaData]

theorem readStep_of_data {s : State} {f : Frame} (hf : txaData (transportAnswer s) = some f) :
    readStep s = .next (finishRead f (record (.readOk Config.dataBase f) s)) := by
  obtain ⟨w, ha, hw, rfl⟩ := txaData_eq_some_iff.1 hf
  simp [readStep, regrd_byte, ha, hw, callPrim]

/-- In RD the data frame and the select frame are both READ's own step. -/
theorem edge_rd {s : State} (hr : s.pins.rst = false) (hp : s.ph = .rd) : edge s = readStep s := by
  cases hf : txaData (transportAnswer s) with
  | some f =>
    rw [edge_of_fetchWord hr (fetchWord_rd_data hp hf), runWord_of_decode (decode_dataPattern f),
      readStep_of_data hf]
    simp [exec, execReadData, hp]
  | none =>
    rw [edge_of_fetchWord hr (fetchWord_rd_select hp hf), runWord_of_decode decode_dataBase]
    simp [exec, execReadSelect, hp]

theorem edge_ang_cmdr {s : State} {c : CmdWord} (hr : s.pins.rst = false) (hp : s.ph = .ang)
    (hc : s.cmdr = some c) : edge s = exec (decodeCmd c) s := by
  rw [edge_of_fetchWord hr (by rw [fetchWord_ang hp, hc, Option.map_some]), runWord_of_decode rfl]

theorem angleCommand_ang {s : State} (hp : s.ph = .ang) (op : BitVec 2) (a z : Comp) :
    angleCommand op a z s = .next (respond (anglePayload (angle a z)) s) := by
  simp [angleCommand, hp]

/-- ANGLE-DONE for a TILT or an AWE in `CMDR` (R120). -/
theorem edge_ang {s : State} {a z : Comp} (hr : s.pins.rst = false) (hp : s.ph = .ang)
    (hc : s.cmdr = some (cmdWordA 0b10 a z) ∨ s.cmdr = some (cmdWordA 0b11 a z)) :
    edge s = .next (respond (anglePayload (angle a z)) s) := by
  rcases hc with hc | hc
  · rw [edge_ang_cmdr hr hp hc, decodeCmd_tilt]
    exact angleCommand_ang hp 0b10 a z
  · rw [edge_ang_cmdr hr hp hc, decodeCmd_awe]
    exact angleCommand_ang hp 0b11 a z

theorem edge_resp {s : State} (hr : s.pins.rst = false) (hp : s.ph = .resp) :
    edge s = respEdge s := by
  rw [edge_of_no_fetchWord hr (fetchWord_resp hp)]
  simp [quietEdge, hp]

/-! ## Where an edge stops -/

theorem step_eq_fault_iff {s : State} {f : Fault} : step s = .fault f ↔ edge s = .fault f :=
  ⟨onNext_eq_fault, fun h => by rw [step, h, onNext_fault]⟩

theorem step_eq_refused_iff {s : State} {r : Refusal} :
    step s = .refused r ↔ edge s = .refused r :=
  ⟨onNext_eq_refused, fun h => by rw [step, h, onNext_refused]⟩

theorem respEdge_ne_refused (s : State) (r : Refusal) : respEdge s ≠ .refused r := by
  unfold respEdge
  split
  · split <;> simp
  · simp

/-- In a run no edge is refused in the middle of a command: each phase has its own word. -/
theorem edge_busy_ne_refused {s : State} (hi : Inv s) (hr : s.pins.rst = false) (hp : s.ph ≠ .idle)
    (r : Refusal) : edge s ≠ .refused r := by
  cases hph : s.ph with
  | idle => exact absurd hph hp
  | init k =>
    obtain ⟨t, ht⟩ := initWriteStep_next k s
    simp [edge_init hr hph, ht]
  | rd =>
    obtain ⟨t, ht⟩ := readStep_next s
    simp [edge_rd hr hph, ht]
  | ang =>
    obtain ⟨a, z, hc⟩ := hi.ang_command hph
    simp [edge_ang hr hph hc]
  | resp =>
    rw [edge_resp hr hph]
    exact respEdge_ne_refused s r

/-- The four opcodes of a command word (R82). -/
theorem decodeCmd_cases (c : CmdWord) :
    (c.extractLsb' 40 2 = 0b00 ∧ ∃ pad, decodeCmd c = .init pad) ∨
    (c.extractLsb' 40 2 = 0b01 ∧ ∃ pad, decodeCmd c = .read pad) ∨
    (c.extractLsb' 40 2 = 0b10 ∧ ∃ a z, decodeCmd c = .tilt a z) ∨
    (c.extractLsb' 40 2 = 0b11 ∧ ∃ a z, decodeCmd c = .awe a z) := by
  have h4 : ∀ op : BitVec 2, op = 0b00 ∨ op = 0b01 ∨ op = 0b10 ∨ op = 0b11 := by decide
  rcases h4 (c.extractLsb' 40 2) with h | h | h | h <;> simp [decodeCmd, h]

/-- In IDLE the one command without a meaning is INIT when Ready (R117). -/
theorem exec_decodeCmd_idle_refused_iff {s : State} (hp : s.ph = .idle) (c : CmdWord) (r : Refusal) :
    exec (decodeCmd c) s = .refused r ↔
      r = .initWhenReady ∧ s.ds = .ready ∧ c.extractLsb' 40 2 = 0b00 := by
  rcases decodeCmd_cases c with ⟨ho, pad, hi⟩ | ⟨ho, pad, hi⟩ | ⟨ho, a, z, hi⟩ | ⟨ho, a, z, hi⟩
  · cases hd : s.ds <;> simp [hi, ho, exec, execInit, hp, hd, eq_comm (a := r)]
  · cases hd : s.ds <;> simp [hi, ho, exec, execRead, hp, hd]
  · simp [hi, ho, exec, execTilt, angleCommand, hp]
  · simp [hi, ho, exec, execAwe, angleCommand, hp]

/-- A word on the primitive port decodes only to a register primitive. -/
theorem decode_primEncoded {q : PrimWord} {i : Instr} (h : decode (primEncoded q) = .ok i) :
    ∃ T, primTxn i = some T := by
  cases q with
  | busW2 w =>
    simp only [primEncoded, decode, Except.ok.injEq] at h
    subst h
    unfold decodeW2
    split_ifs <;> exact ⟨_, rfl⟩
  | busSel1 w =>
    simp only [primEncoded, decode, Except.ok.injEq] at h
    subst h
    unfold decodeSel1
    split_ifs <;> exact ⟨_, rfl⟩
  | txq w =>
    simp only [primEncoded, decode, decodeTxq] at h
    split_ifs at h <;> cases h <;> exact ⟨_, rfl⟩

/-- In IDLE a register primitive always answers a next state. -/
theorem exec_primitive_idle_next {s : State} {i : Instr} {T : Txn} (hp : s.ph = .idle)
    (hT : primTxn i = some T) : ∃ t, exec i s = .next t := by
  have hf (k : Fin 4) : ∃ t, initFrame k s = .next t := by
    rw [initFrame, if_neg (by simp [hp])]
    exact exposedWrite_next hp _ _
  cases i with
  | init pad => simp [primTxn] at hT
  | read pad => simp [primTxn] at hT
  | tilt a z => simp [primTxn] at hT
  | awe a z => simp [primTxn] at hT
  | regwrFrame a v => exact exposedWrite_next hp a v
  | initWrite1 => exact hf 0
  | initWrite2 => exact hf 1
  | initWrite3 => exact hf 2
  | initWrite4 => exact hf 3
  | regrdSelect a => exact exposedRead_next hp a
  | readSelect =>
    have hs : exec .readSelect s = exposedRead Config.dataBase s := if_neg (by simp [hp])
    rw [hs]
    exact exposedRead_next hp _
  | readData f => simp [primTxn] at hT
  | txqWrite a v => exact exposedWrite_next hp a v
  | txqWriteThenRead a => exact exposedRead_next hp a

/-- In IDLE a word on the primitive port is refused exactly when it decodes to nothing. -/
theorem runWord_prim_refused_iff {s : State} (hp : s.ph = .idle) (q : PrimWord) (r : Refusal) :
    runWord (primEncoded q) s = .refused r ↔
      ∃ d, r = .illegalRequest d ∧ decode (primEncoded q) = .error d := by
  cases hq : decode (primEncoded q) with
  | ok i =>
    obtain ⟨T, hT⟩ := decode_primEncoded hq
    obtain ⟨t, ht⟩ := exec_primitive_idle_next hp hT
    simp [runWord_of_decode hq, ht]
  | error d => simp [runWord, hq, eq_comm]

/-- Exactly the refusals in IDLE without reset: INIT when Ready, or an illegal word on the port. -/
theorem edge_idle_refused_iff {s : State} (hr : s.pins.rst = false) (hp : s.ph = .idle)
    (r : Refusal) : edge s = .refused r ↔
      (r = .initWhenReady ∧ s.ds = .ready ∧
        ∃ c, s.pins.cmd = some c ∧ c.extractLsb' 40 2 = 0b00) ∨
      (∃ d q, r = .illegalRequest d ∧ s.pins.cmd = none ∧ s.pins.prim = some q ∧
        decode (primEncoded q) = .error d) := by
  cases hc : s.pins.cmd with
  | some c => simp [edge_idle_cmd hr hp hc, exec_decodeCmd_idle_refused_iff hp]
  | none =>
    cases hq : s.pins.prim with
    | some q => simp [edge_idle_prim hr hp hc hq, runWord_prim_refused_iff hp]
    | none => simp [edge_idle_nothing hr hp hc hq]

/-! ## What every step keeps -/

section afterInitWrite
variable (k : Fin 4) (s : State)

theorem afterInitWrite_ds : (afterInitWrite k s).ds = if k = 3 then .ready else s.ds := by
  fin_cases k <;> rfl

theorem afterInitWrite_phaseMove : phaseMove (.init k) (afterInitWrite k s).ph = true := by
  fin_cases k <;> rfl

@[simp] theorem afterInitWrite_offsets : (afterInitWrite k s).offsets = s.offsets := by
  fin_cases k <;> rfl

@[simp] theorem afterInitWrite_pins : (afterInitWrite k s).pins = s.pins := by
  fin_cases k <;> rfl

@[simp] theorem afterInitWrite_inputs : (afterInitWrite k s).inputs = s.inputs := by
  fin_cases k <;> rfl

@[simp] theorem afterInitWrite_delivered : (afterInitWrite k s).delivered = s.delivered := by
  fin_cases k <;> rfl

end afterInitWrite

/-- A meaning keeps the phase or moves it along R22's table. -/
theorem ExecCase.phase_kept_or_moved {s t : State} (h : ExecCase s t) :
    t.ph = s.ph ∨ phaseMove s.ph t.ph = true := by
  cases h with
  | wait => exact .inl rfl
  | transfer hp => exact .inl rfl
  | acceptInit hp => exact .inr (by simp [hp, phaseMove])
  | acceptReadUninit hp => exact .inr (by simp [hp, phaseMove])
  | acceptReadReady hp => exact .inr (by simp [hp, phaseMove])
  | acceptAngle hp => exact .inr (by simp [hp, phaseMove])
  | primOk hp e => exact .inl rfl
  | primFail hp e => exact .inr (by simp [hp, phaseMove])
  | initOk k hp => exact .inr (hp ▸ afterInitWrite_phaseMove k _)
  | initFail k hp => exact .inr (by simp [hp, phaseMove])
  | readOk hp f => exact .inr (by simp [hp, phaseMove])
  | readFail hp => exact .inr (by simp [hp, phaseMove])
  | angleDone hp => exact .inr (by simp [hp, phaseMove])

/-- A meaning keeps `DS`, or is INIT-OK-3. -/
theorem ExecCase.ds_kept_or_ready {s t : State} (h : ExecCase s t) :
    t.ds = s.ds ∨
      (s.ph = .init 3 ∧ (∃ w, transportAnswer s = some w ∧ txaOk w = true) ∧ t.ds = .ready) := by
  cases h with
  | initOk k hp w ht hw =>
    by_cases hk : k = 3
    · subst hk
      exact .inr ⟨hp, ⟨w, ht, hw⟩, rfl⟩
    · exact .inl (by simp [afterInitWrite_ds, hk])
  | _ => exact .inl rfl

/-! ## Reset -/

theorem step_reset_idle {s : State} (hr : s.pins.rst = true) (hp : s.ph = .idle) :
    step s = .next (nextEdge (takeReset s)) := by
  rw [step, edge_reset hr, resetEdge_idle hp, onNext_next]

end Sys2Proof.Machine
end

section
/-! PROOFS. The statements on the Block's state and its phases (spec/10_state.md). -/

namespace Sys2Proof.Machine

/-- Settles O7: by phase, the word fetched and the instruction it decodes to. -/
theorem eachPhaseRunsItsWord : Obligations.EachPhaseRunsItsWord := by
  intro s hr
  refine ⟨fun c i hp hc hi => ?idle, fun k hp => ?init, fun f hp hq hf => ?data, fun hp h => ?select,
    fun c i hp hc hi => ?ang, fun hp hc hq => ?nothing⟩
  case idle => exact step_of_fetchWord hr (fetchWord_idle_cmd hp hc) hi
  case init => exact step_of_fetchWord hr (fetchWord_init hp) (decode_initFrameWord k)
  case data =>
    rw [← transportAnswer_of_transferred hq] at hf
    exact step_of_fetchWord hr (fetchWord_rd_data hp hf) (decode_dataPattern f)
  case select =>
    exact step_of_fetchWord hr (fetchWord_rd_select hp (txaData_transportAnswer_eq_none h))
      decode_dataBase
  case ang => exact step_of_fetchWord hr (by rw [fetchWord_ang hp, hc, Option.map_some]) hi
  case nothing => rw [step, edge_idle_nothing hr hp hc hq, onNext_next]

/-- Settles O52: `edge_fault_iff` under the invariant, and the refusals at reset, in IDLE and in the
other phases. -/
theorem runsStopOnlyWhereSpecDoes : Obligations.RunsStopOnlyWhereSpecDoes := by
  intro s hi
  refine ⟨fun f h => ?_, fun r => ?_⟩
  · obtain ⟨-, ⟨-, hp, hn⟩ | ⟨-, hp, -, -, hn⟩⟩ := edge_fault_iff.1 (step_eq_fault_iff.1 h)
    · obtain ⟨a, z, hc⟩ := hi.ang_command hp
      simp [hn] at hc
    · exact hi.rspr_held hp hn
  · rw [step_eq_refused_iff]
    cases hr : s.pins.rst with
    | true =>
      rw [edge_reset hr]
      by_cases hp : s.ph = .idle
      · simp [resetEdge_idle hp, hp]
      · simp [resetEdge_busy hp, hp, eq_comm]
    | false =>
      by_cases hp : s.ph = .idle
      · simp [edge_idle_refused_iff hr hp, hp]
      · simp [edge_busy_ne_refused hi hr hp, hp]

/-- Settles O54: reset keeps IDLE, DELIVER goes from RESP to IDLE, and a meaning moves by the table. -/
theorem phaseMovesByTable : Obligations.PhaseMovesByTable := by
  intro s t h
  obtain ⟨u, hu, rfl⟩ := step_cases h
  cases hu with
  | reset hr hp => exact .inl hp.symm
  | worked hr h => exact h.phase_kept_or_moved
  | delivered hr hp => exact .inr (by simp [hp, phaseMove])

/-- Settles O55: only reset and INIT-OK-3 write `DS`; the answer that INIT-OK-3 takes is one to a
transferred request. -/
theorem onlyInitMakesReady : Obligations.OnlyInitMakesReady := by
  intro s t h
  obtain ⟨u, hu, rfl⟩ := step_cases h
  cases hu with
  | reset hr hp => exact .inr (.inl ⟨hr, rfl⟩)
  | worked hr h =>
    rcases h.ds_kept_or_ready with hd | ⟨hp, ⟨w, ha, hw⟩, hd⟩
    · exact .inl hd
    · obtain ⟨hq, ht⟩ := transportAnswer_eq_some.1 ha
      exact .inr (.inr ⟨hp, hq, ⟨w, ht, hw⟩, hd⟩)
  | delivered hr hp hv r hs => exact .inl rfl

/-- Settles O58: each way in which a meaning answers a next state is made of updates that write none of
these fields. -/
theorem instructionsKeepParameters : Obligations.InstructionsKeepParameters := by
  intro i s t h
  cases execCase_of_exec h with
  | initOk k => simp
  | _ => exact ⟨rfl, rfl, rfl, rfl⟩

/-- Settles O14: the next state is that of the reset event, field by field. -/
theorem resetInIdle : Obligations.ResetInIdle := by
  intro s hr hp
  exact ⟨_, step_reset_idle hr hp, by simp [txqBus, cmdReady]⟩

/-- Settles O16, by evaluating the reset state. -/
theorem resetState : Obligations.ResetState := by
  unfold Obligations.ResetState
  decide

end Sys2Proof.Machine
end

section
/-! SUPPORT. What a step adds to the event trace, phase by phase. -/

namespace Sys2Proof.Machine

@[simp] theorem afterInitWrite_trace (k : Fin 4) (s : State) :
    (afterInitWrite k s).trace = s.trace := by
  fin_cases k <;> rfl

/-! ## What a transaction's answer adds to the trace -/

/-- From `s` to `t` the trace is kept, or the answer `a` has come to transaction `T` and is its new last
entry. -/
def TraceKeptOrAnswered (T : Txn) (a : Option TxaWord) (s t : State) : Prop :=
  t.trace = s.trace ∨ ∃ w, a = some w ∧ t.trace = s.trace ++ [answered T w]

theorem exposedWrite_trace {a v : Byte} {s t : State} (h : exposedWrite a v s = .next t) :
    TraceKeptOrAnswered (.write a v) s.pins.txa s t := by
  obtain ⟨-, rfl | ⟨w, hx, hw, rfl⟩ | ⟨w, hx, hw, rfl⟩⟩ := exposedWrite_cases h
  · exact .inl rfl
  · exact .inr ⟨w, hx, by simp [answered, hw]⟩
  · exact .inr ⟨w, hx, by simp [answered, hw]⟩

theorem exposedRead_trace {a : Byte} {s t : State} (h : exposedRead a s = .next t) :
    TraceKeptOrAnswered (.writeThenRead a) s.pins.txa s t := by
  obtain ⟨-, rfl | ⟨w, hx, hw, rfl⟩ | ⟨w, hx, hw, rfl⟩⟩ := exposedRead_cases h
  · exact .inl rfl
  · exact .inr ⟨w, hx, by simp [answered, hw]⟩
  · exact .inr ⟨w, hx, by simp [answered, hw]⟩

theorem initWriteStep_trace {k : Fin 4} {s t : State} (h : initWriteStep k s = .next t) :
    TraceKeptOrAnswered (initTxn k) (transportAnswer s) s t := by
  obtain rfl | ⟨w, hx, hw, rfl⟩ | ⟨w, hx, hw, rfl⟩ := initWriteStep_cases h
  · exact .inl rfl
  · exact .inr ⟨w, hx, by simp [answered, hw, initTxn, initOkEvent]⟩
  · exact .inr ⟨w, hx, by simp [answered, hw, initTxn, initFailEvent]⟩

theorem readStep_trace {s t : State} (h : readStep s = .next t) :
    TraceKeptOrAnswered (.writeThenRead Config.dataBase) (transportAnswer s) s t := by
  obtain rfl | ⟨w, hx, hw, rfl⟩ | ⟨w, hx, hw, rfl⟩ := readStep_cases h
  · exact .inl rfl
  · exact .inr ⟨w, hx, by simp [answered, hw]⟩
  · exact .inr ⟨w, hx, by simp [answered, hw]⟩

/-- An angle command takes no answer. -/
theorem angleCommand_trace {op : BitVec 2} {a z : Comp} {s t : State}
    (h : angleCommand op a z s = .next t) : t.trace = s.trace := by
  obtain ⟨-, rfl⟩ | ⟨-, rfl⟩ := angleCommand_cases h
  · rfl
  · rfl

/-- In IDLE a register primitive's transaction is its own (R111, R112). -/
theorem exec_primitive_idle_trace {s t : State} {i : Instr} {T : Txn} (hp : s.ph = .idle)
    (hT : primTxn i = some T) (h : exec i s = .next t) :
    TraceKeptOrAnswered T s.pins.txa s t := by
  have hf (k : Fin 4) (h : initFrame k s = .next t) :
      TraceKeptOrAnswered (initTxn k) s.pins.txa s t := by
    rw [initFrame, if_neg (by simp [hp])] at h
    exact exposedWrite_trace h
  cases i <;> cases hT
  case regwrFrame a v => exact exposedWrite_trace h
  case initWrite1 => exact hf 0 h
  case initWrite2 => exact hf 1 h
  case initWrite3 => exact hf 2 h
  case initWrite4 => exact hf 3 h
  case regrdSelect a => exact exposedRead_trace h
  case readSelect =>
    have hs : exec .readSelect s = exposedRead Config.dataBase s := if_neg (by simp [hp])
    exact exposedRead_trace (hs ▸ h)
  case txqWrite a v => exact exposedWrite_trace h
  case txqWriteThenRead a => exact exposedRead_trace h

/-- In IDLE no command takes an answer: each is accepted only (R120). -/
theorem exec_decodeCmd_idle_trace {s t : State} (hp : s.ph = .idle) {c : CmdWord}
    (h : exec (decodeCmd c) s = .next t) : t.trace = s.trace := by
  rcases decodeCmd_cases c with ⟨-, pad, hi⟩ | ⟨-, pad, hi⟩ | ⟨-, a, z, hi⟩ | ⟨-, a, z, hi⟩ <;>
    rw [hi] at h
  · simp only [exec, execInit, hp] at h
    cases hd : s.ds <;> simp only [hd, reduceCtorEq, Host.Outcome.next.injEq] at h
    exact h ▸ rfl
  · simp only [exec, execRead, hp] at h
    cases hd : s.ds <;> simp only [hd, Host.Outcome.next.injEq] at h <;> exact h ▸ rfl
  · exact angleCommand_trace h
  · exact angleCommand_trace h

/-- An edge in IDLE adds an entry only by the primitive on the model's own port (log entry 4). -/
theorem edge_idle_trace {s t : State} (hr : s.pins.rst = false) (hp : s.ph = .idle)
    (h : edge s = .next t) :
    t.trace = s.trace ∨ (s.pins.cmd = none ∧ ∃ q i T, s.pins.prim = some q ∧
      decode (primEncoded q) = .ok i ∧ primTxn i = some T ∧
      TraceKeptOrAnswered T s.pins.txa s t) := by
  cases hc : s.pins.cmd with
  | some c =>
    rw [edge_idle_cmd hr hp hc] at h
    exact .inl (exec_decodeCmd_idle_trace hp h)
  | none =>
    cases hq : s.pins.prim with
    | none =>
      rw [edge_idle_nothing hr hp hc hq, Host.Outcome.next.injEq] at h
      exact .inl (h ▸ rfl)
    | some q =>
      rw [edge_idle_prim hr hp hc hq] at h
      cases hi : decode (primEncoded q) with
      | error d => simp [runWord, hi] at h
      | ok i =>
        rw [runWord_of_decode hi] at h
        obtain ⟨T, hT⟩ := decode_primEncoded hi
        exact .inr ⟨rfl, q, i, T, rfl, hi, hT, exec_primitive_idle_trace hp hT h⟩

/-- An edge in INITk or RD adds an entry only by the answer to the phase's transaction. -/
theorem edge_waiting_trace {s t : State} (hr : s.pins.rst = false)
    (hw : waitsForAnswer s.ph = true) (h : edge s = .next t) :
    ∃ T, phaseTxn s.ph = some T ∧ TraceKeptOrAnswered T (transportAnswer s) s t := by
  cases hp : s.ph with
  | init k => exact ⟨_, rfl, initWriteStep_trace (edge_init hr hp ▸ h)⟩
  | rd => exact ⟨_, rfl, readStep_trace (edge_rd hr hp ▸ h)⟩
  | idle => simp [hp, waitsForAnswer] at hw
  | ang => simp [hp, waitsForAnswer] at hw
  | resp => simp [hp, waitsForAnswer] at hw

/-- A meaning in ANG or RESP takes no answer. -/
theorem ExecCase.trace_kept {s t : State} (h : ExecCase s t) (hp : s.ph ≠ .idle)
    (hw : waitsForAnswer s.ph = false) : t.trace = s.trace := by
  cases h with
  | wait => rfl
  | transfer => rfl
  | angleDone => rfl
  | acceptInit h => exact absurd h hp
  | acceptReadUninit h => exact absurd h hp
  | acceptReadReady h => exact absurd h hp
  | acceptAngle h => exact absurd h hp
  | primOk h => exact absurd h hp
  | primFail h => exact absurd h hp
  | initOk k h => simp [h, waitsForAnswer] at hw
  | initFail k h => simp [h, waitsForAnswer] at hw
  | readOk h => simp [h, waitsForAnswer] at hw
  | readFail h => simp [h, waitsForAnswer] at hw

theorem EdgeCase.trace_kept {s t : State} (h : EdgeCase s t) (hp : s.ph ≠ .idle)
    (hw : waitsForAnswer s.ph = false) : t.trace = s.trace := by
  cases h with
  | reset hr h => exact absurd h hp
  | worked hr h => exact h.trace_kept hp hw
  | delivered => rfl

end Sys2Proof.Machine
end

section
/-! SUPPORT. What the invariant gives in each phase, and which updates of the state keep it. -/

namespace Sys2Proof

open Machine

/-! ## The writes of INIT in the trace -/

/-- INIT-OK-k adds the entry of write `k`+1 to those of the writes before it (R116). -/
theorem initOkEvents_succ (k : Fin 4) :
    initOkEvents (k.val + 1) = initOkEvents k.val ++ [initOkEvent k] := by
  revert k
  decide

theorem initOkEvents_suffix_append {k : Fin 4} {l : List Event} (h : initOkEvents k.val <:+ l) :
    initOkEvents (k.val + 1) <:+ l ++ [initOkEvent k] := by
  rw [initOkEvents_succ]
  exact List.suffix_append_inj_of_length_eq rfl |>.2 ⟨h, rfl⟩

/-! ## What the invariant gives in each phase -/

section
variable {s : State} (hi : Inv s)
include hi

theorem Inv.rspValid_false (hp : s.ph ≠ .resp) : s.rspValid = false :=
  Bool.eq_false_iff.2 (mt hi.rspValid_iff.1 hp)

theorem Inv.frame_none (hp : s.ph ≠ .resp) : s.frame = none :=
  not_not.1 (mt hi.frame_transient hp)

theorem Inv.txqValid_false (hw : waitsForAnswer s.ph = false) : s.txqValid = false := by
  simpa [hw] using hi.txqValid_waits

/-- What was configured stays in the trace when an entry is added. -/
theorem Inv.ready_configured_append (e : Event) (hd : s.ds = .ready) :
    initOkEvents 4 <:+: s.trace ++ [e] :=
  (hi.ready_configured hd).trans (List.prefix_append _ _).isInfix

end

/-! ## Which updates meet the invariant -/

/-- A response waits in RESP with the bus at rest. -/
theorem Inv.of_resp {t : State} {r : Response} (hp : t.ph = .resp) (hv : t.rspValid = true)
    (hs : t.rspr = some r) (hr : r ≠ .error .invalidRegisterValue) (hf : t.inFlight = none)
    (hq : t.txqValid = false) (hd : t.ds = .ready → initOkEvents 4 <:+: t.trace)
    (hn : .error .invalidRegisterValue ∉ t.delivered) : Inv t where
  rspValid_iff := by simp [hp, hv]
  rspr_held := by simp [hs]
  frame_transient := fun _ => hp
  inFlight_eq := by simp [hp, hf, phaseTxn]
  txqValid_waits := by simp [hq]
  init_prefix := by simp [hp]
  rd_ready := by simp [hp]
  ready_configured := hd
  ang_command := by simp [hp]
  no_invalid := by simpa [hs] using hr
  no_invalid_delivered := hn

/-- Write `k`+1 of INIT is requested when the `k` writes before it have just been answered Ok. -/
theorem inv_startInitWrite {k : Fin 4} {s : State} (hv : s.rspValid = false) (hf : s.frame = none)
    (hd : s.ds = .uninitialized) (hk : initOkEvents k.val <:+ s.trace)
    (hr : s.rspr ≠ some (.error .invalidRegisterValue))
    (hn : .error .invalidRegisterValue ∉ s.delivered) : Inv (startInitWrite k s) where
  rspValid_iff := by simp [hv]
  rspr_held := by simp
  frame_transient := by simp [hf]
  inFlight_eq := rfl
  txqValid_waits := fun _ => rfl
  init_prefix := by
    rintro j ⟨⟩
    exact ⟨hd, hk⟩
  rd_ready := by simp
  ready_configured := by simp [hd]
  ang_command := by simp
  no_invalid := hr
  no_invalid_delivered := hn

/-- The reset event meets the invariant, whatever came before. -/
theorem inv_takeReset (s : State) : Inv (takeReset s) where
  rspValid_iff := by simp
  rspr_held := by simp
  frame_transient := by simp
  inFlight_eq := rfl
  txqValid_waits := by simp
  init_prefix := by simp
  rd_ready := by simp
  ready_configured := by simp
  ang_command := by simp
  no_invalid := by simp
  no_invalid_delivered := by simp

section
variable {s : State} (hi : Inv s)
include hi

/-- The environment's inputs are not in the invariant. -/
theorem inv_nextEdge : Inv (nextEdge s) := { hi with }

theorem inv_transferRequest (hw : waitsForAnswer s.ph = true) : Inv (transferRequest s) :=
  { hi with txqValid_waits := fun _ => hw }

/-- A transaction is answered Fail. -/
theorem inv_raise_record (e : Event) : Inv (raise .transportError (record e s)) :=
  .of_resp rfl rfl rfl (by decide) rfl rfl (hi.ready_configured_append e) hi.no_invalid_delivered

/-- In IDLE a primitive on the model's own port is answered Ok. -/
theorem inv_record_idle (hp : s.ph = .idle) (e : Event) : Inv (record e s) :=
  { hi with
    inFlight_eq := by simp [hp, phaseTxn]
    txqValid_waits := by simp
    init_prefix := by simp [hp]
    ready_configured := hi.ready_configured_append e }

/-- INIT-OK-k (R120): the entry of write `k`+1 is the last one when the next write, or Ready, comes. -/
theorem inv_afterInitWrite {k : Fin 4} (hp : s.ph = .init k) :
    Inv (afterInitWrite k (record (initOkEvent k) s)) := by
  obtain ⟨hd, hk⟩ := hi.init_prefix k hp
  have hv : s.rspValid = false := hi.rspValid_false (by simp [hp])
  have hf : s.frame = none := hi.frame_none (by simp [hp])
  have hk' := initOkEvents_suffix_append hk
  have hnext {j : Fin 4} (hj : j.val = k.val + 1) :
      Inv (startInitWrite j (record (initOkEvent k) s)) :=
    inv_startInitWrite hv hf hd (hj ▸ hk') hi.no_invalid hi.no_invalid_delivered
  fin_cases k
  · exact hnext (j := 1) rfl
  · exact hnext (j := 2) rfl
  · exact hnext (j := 3) rfl
  · exact .of_resp rfl rfl rfl (by simp) rfl rfl (fun _ => hk'.isInfix) hi.no_invalid_delivered

/-- ACCEPT-READ-U (R120). -/
theorem inv_acceptReadUninit (hp : s.ph = .idle) (c : CmdWord) :
    Inv (raise .notInitialized (latch c s)) :=
  .of_resp rfl rfl rfl (by decide) (by simp [hi.inFlight_eq, hp, phaseTxn])
    (hi.txqValid_false (by rw [hp]; rfl)) hi.ready_configured hi.no_invalid_delivered

/-- ACCEPT-READ-R (R120). -/
theorem inv_acceptReadReady (hp : s.ph = .idle) (hd : s.ds = .ready) (c : CmdWord) :
    Inv (setPhase .rd (request (.writeThenRead Config.dataBase) (latch c s))) :=
  { hi with
    rspValid_iff := by simp [hi.rspValid_false, hp]
    rspr_held := by simp
    frame_transient := by simp [hi.frame_none, hp]
    inFlight_eq := rfl
    txqValid_waits := fun _ => rfl
    init_prefix := by simp
    rd_ready := fun _ => hd
    ang_command := by simp }

/-- ACCEPT-ANGLE (R120). -/
theorem inv_acceptAngle (hp : s.ph = .idle) {op : BitVec 2} (ho : op = 0b10 ∨ op = 0b11)
    (a z : Comp) : Inv (setPhase .ang (latch (cmdWordA op a z) s)) :=
  { hi with
    rspValid_iff := by simp [hi.rspValid_false, hp]
    rspr_held := by simp
    frame_transient := by simp [hi.frame_none, hp]
    inFlight_eq := by simp [hi.inFlight_eq, hp, phaseTxn]
    txqValid_waits := by simp [hi.txqValid_false, hp, waitsForAnswer]
    init_prefix := by simp
    rd_ready := by simp
    ang_command := fun _ => ⟨a, z, by rcases ho with rfl | rfl <;> simp⟩ }

/-- ANGLE-DONE (R120). -/
theorem inv_angleDone (hp : s.ph = .ang) (p : Payload) : Inv (respond p s) :=
  .of_resp rfl rfl rfl (by simp) (by simp [hi.inFlight_eq, hp, phaseTxn])
    (hi.txqValid_false (by rw [hp]; rfl)) hi.ready_configured hi.no_invalid_delivered

/-- DELIVER (R120): what is delivered is what `RSPR` holds. -/
theorem inv_deliver (hp : s.ph = .resp) {r : Response} (hs : s.rspr = some r) :
    Inv (deliver r s) :=
  { hi with
    rspValid_iff := by simp
    rspr_held := by simp
    frame_transient := by simp
    inFlight_eq := by simp [hi.inFlight_eq, hp, phaseTxn]
    txqValid_waits := by simp [hi.txqValid_false, hp, waitsForAnswer]
    init_prefix := by simp
    rd_ready := by simp
    ang_command := by simp
    no_invalid_delivered := by
      have hr : r ≠ .error .invalidRegisterValue := by simpa [hs] using hi.no_invalid
      simp [hi.no_invalid_delivered, hr.symm] }

/-- Every meaning keeps the invariant. -/
theorem inv_of_execCase {t : State} (h : ExecCase s t) : Inv t := by
  cases h with
  | wait => exact hi
  | transfer hp => exact inv_transferRequest hi hp
  | acceptInit hp hd pad =>
    exact inv_startInitWrite (hi.rspValid_false (by simp [hp])) (hi.frame_none (by simp [hp])) hd
      List.nil_suffix hi.no_invalid hi.no_invalid_delivered
  | acceptReadUninit hp hd pad => exact inv_acceptReadUninit hi hp _
  | acceptReadReady hp hd pad => exact inv_acceptReadReady hi hp hd _
  | acceptAngle hp op ho a z => exact inv_acceptAngle hi hp ho a z
  | primOk hp e => exact inv_record_idle hi hp e
  | primFail hp e => exact inv_raise_record hi e
  | initOk k hp w ht hw => exact inv_afterInitWrite hi hp
  | initFail k hp w ht hw => exact inv_raise_record hi _
  | readOk hp f =>
    exact .of_resp rfl rfl rfl (by simp) rfl rfl (hi.ready_configured_append _)
      hi.no_invalid_delivered
  | readFail hp w ht hw => exact inv_raise_record hi _
  | angleDone hp a z => exact inv_angleDone hi hp _

end

end Sys2Proof
end

section
/-! PROOFS. The statements on the bus transactions and their trace (spec/20_memory.md). -/

namespace Sys2Proof.Machine

/-- Settles O51: reset, each meaning and DELIVER meet the invariant, and the environment's next inputs
do not touch it. -/
theorem stepKeepsInvariant : Obligations.StepKeepsInvariant := by
  intro s t hi h
  obtain ⟨u, hu, rfl⟩ := step_cases h
  apply inv_nextEdge
  cases hu with
  | reset hr hp => exact inv_takeReset s
  | worked hr h => exact inv_of_execCase hi h
  | delivered hr hp hv r hs => exact inv_deliver hi hp hs

/-- Settles O56: in IDLE only the primitive on the port adds an entry, in INITk and RD only the answer to
the phase's transaction, which the invariant says is in flight, and in ANG and RESP nothing does. -/
theorem traceOnlyGrows : Obligations.TraceOnlyGrows := by
  intro s t hr h
  obtain ⟨u, hu, rfl⟩ := onNext_eq_next h
  by_cases hp : s.ph = .idle
  · obtain hk | ⟨hc, q, i, T, hq, hi, hT, hk | ⟨w, hw, hk⟩⟩ := edge_idle_trace hr hp hu
    · exact .inl hk
    · exact .inl hk
    · exact .inr ⟨T, w, hw, hk, fun _ => ⟨hc, q, i, hq, hi, hT⟩, fun hn => absurd hp hn⟩
  · cases hw : waitsForAnswer s.ph with
    | false => exact .inl ((edge_cases hu).trace_kept hp hw)
    | true =>
      obtain ⟨T, hT, hk | ⟨w, ha, hk⟩⟩ := edge_waiting_trace hr hw hu
      · exact .inl hk
      · obtain ⟨hq, hx⟩ := transportAnswer_eq_some.1 ha
        exact .inr ⟨T, w, hx, hk, fun h => absurd h hp,
          fun _ => ⟨hq, rfl, fun hi => hi.inFlight_eq.trans hT⟩⟩

end Sys2Proof.Machine
end

section
/-! SUPPORT. The words put together again from their fields, and what each decoder reads from them. -/

namespace Sys2Proof

/-! ## Words from their fields -/

theorem cmdWordC_fields (c : CmdWord) :
    cmdWordC (c.extractLsb' 40 2) (c.extractLsb' 0 40) = c := by
  rw [cmdWordC, BitVec.extractLsb'_append_extractLsb'_eq_extractLsb' (by rfl)]
  exact BitVec.extractLsb'_eq_self

theorem cmdWordA_fields (c : CmdWord) :
    cmdWordA (c.extractLsb' 40 2) (c.extractLsb' 20 20) (c.extractLsb' 0 20) = c := by
  rw [cmdWordA, BitVec.extractLsb'_append_extractLsb'_eq_extractLsb' (by rfl)]
  exact cmdWordC_fields c

theorem writeFrameWord_fields (w : BitVec 16) :
    writeFrameWord (w.extractLsb' 8 8) (w.extractLsb' 0 8) = w := by
  rw [writeFrameWord, BitVec.extractLsb'_append_extractLsb'_eq_extractLsb' (by rfl)]
  exact BitVec.extractLsb'_eq_self

theorem patternOfFrame_frameOfPattern (w : BitVec 48) : patternOfFrame (frameOfPattern w) = w := by
  simp only [patternOfFrame, frameOfPattern]
  iterate 5 rw [BitVec.extractLsb'_append_extractLsb'_eq_extractLsb' (by rfl)]
  exact BitVec.extractLsb'_eq_self

theorem txqWord_fields (w : TxqWord) :
    txqWord (w.extractLsb' 19 1) (w.extractLsb' 16 3) (w.extractLsb' 8 8) (w.extractLsb' 0 8) = w := by
  rw [txqWord]
  iterate 3 rw [BitVec.extractLsb'_append_extractLsb'_eq_extractLsb' (by rfl)]
  exact BitVec.extractLsb'_eq_self

/-! ## Command words (R81 to R83) -/

section
variable {c : CmdWord}

theorem decodeCmd_of_op_init (h : c.extractLsb' 40 2 = 0b00) :
    decodeCmd c = .init (c.extractLsb' 0 40) := by
  simp [decodeCmd, h]

theorem decodeCmd_of_op_read (h : c.extractLsb' 40 2 = 0b01) :
    decodeCmd c = .read (c.extractLsb' 0 40) := by
  simp [decodeCmd, h]

theorem decodeCmd_of_op_tilt (h : c.extractLsb' 40 2 = 0b10) :
    decodeCmd c = .tilt (c.extractLsb' 20 20) (c.extractLsb' 0 20) := by
  simp [decodeCmd, h]

theorem decodeCmd_of_op_awe (h : c.extractLsb' 40 2 = 0b11) :
    decodeCmd c = .awe (c.extractLsb' 20 20) (c.extractLsb' 0 20) := by
  simp [decodeCmd, h]

/-- The mask of R82 keeps exactly the opcode field. -/
theorem op_of_masked {m : CmdWord} (h : c &&& 0x30000000000#42 = m) :
    c.extractLsb' 40 2 = m.extractLsb' 40 2 := by
  have hmask : (0x30000000000#42).extractLsb' 40 2 = BitVec.allOnes 2 := by decide
  rw [← h, BitVec.extractLsb'_and, hmask, BitVec.and_allOnes]

end

theorem encode_decodeCmd (c : CmdWord) : encode (decodeCmd c) = .cmd c := by
  rcases Machine.decodeCmd_cases c with ⟨h, -⟩ | ⟨h, -⟩ | ⟨h, -⟩ | ⟨h, -⟩
  · rw [decodeCmd_of_op_init h, encode, ← h, cmdWordC_fields]
  · rw [decodeCmd_of_op_read h, encode, ← h, cmdWordC_fields]
  · rw [decodeCmd_of_op_tilt h, encode, ← h, cmdWordA_fields]
  · rw [decodeCmd_of_op_awe h, encode, ← h, cmdWordA_fields]

theorem wellFormed_decodeCmd (c : CmdWord) : (decodeCmd c).WellFormed := by
  rcases Machine.decodeCmd_cases c with ⟨-, _, h⟩ | ⟨-, _, h⟩ | ⟨-, _, _, h⟩ | ⟨-, _, _, h⟩ <;>
    rw [h] <;> rfl

/-! ## Write frames (R90, R91) -/

theorem exists_initSeq_of_isInitPair {a v : Byte} (h : isInitPair a v = true) :
    ∃ k, (a, v) = Config.initSeq k := by
  simp only [isInitPair, Bool.or_eq_true, beq_iff_eq] at h
  rcases h with ((h | h) | h) | h
  · exact ⟨0, h⟩
  · exact ⟨1, h⟩
  · exact ⟨2, h⟩
  · exact ⟨3, h⟩

theorem encode_decodeW2 (w : BitVec 16) : encode (decodeW2 w) = .busW2 w := by
  unfold decodeW2
  split_ifs with h1 h2 h3 h4
  · rw [h1, encode]
  · rw [h2, encode]
  · rw [h3, encode]
  · rw [h4, encode]
  · rw [encode, writeFrameWord_fields]

/-- A word with the two bytes of a frame of `INIT_SEQ` is that frame, so it decodes to the specific row. -/
theorem wellFormed_decodeW2 (w : BitVec 16) : (decodeW2 w).WellFormed := by
  unfold decodeW2
  split_ifs with h1 h2 h3 h4
  · rfl
  · rfl
  · rfl
  · rfl
  · have hw : isInitPair (w.extractLsb' 8 8) (w.extractLsb' 0 8) ≠ true := by
      intro h
      obtain ⟨k, hk⟩ := exists_initSeq_of_isInitPair h
      have hk' : w = Machine.initFrameWord k := by
        rw [Machine.initFrameWord, ← hk, writeFrameWord_fields]
      fin_cases k
      · exact h1 hk'
      · exact h2 hk'
      · exact h3 hk'
      · exact h4 hk'
    simp [Instr.WellFormed, Instr.illFormed, hw]

/-! ## Select frames (R92) -/

theorem encode_decodeSel1 (w : BitVec 8) : encode (decodeSel1 w) = .busSel1 w := by
  unfold decodeSel1
  split_ifs with h
  · rw [h, encode]
  · rfl

theorem wellFormed_decodeSel1 (w : BitVec 8) : (decodeSel1 w).WellFormed := by
  unfold decodeSel1
  split_ifs with h
  · rfl
  · exact if_neg h

/-! ## Transport request words (R88) -/

/-- A request word that decodes has the `rlen` and `w1` of its kind. -/
theorem decodeTxq_cases {w : TxqWord} {i : Instr} (h : decodeTxq w = .ok i) :
    (∃ w0 w1, w = txqWord 0 0 w0 w1 ∧ i = .txqWrite w0 w1) ∨
    (∃ w0, w = txqWord 1 6 w0 0 ∧ i = .txqWriteThenRead w0) := by
  have hone : ∀ k : BitVec 1, k ≠ 0 → k = 1 := by decide
  have hw := txqWord_fields w
  simp only [decodeTxq] at h
  split_ifs at h with hk hr hr h1 <;> cases h
  · rw [hk, hr] at hw
    exact .inl ⟨_, _, hw.symm, rfl⟩
  · rw [hone _ hk, hr, h1] at hw
    exact .inr ⟨_, hw.symm, rfl⟩

end Sys2Proof
end

section
/-! PROOFS. The statements on encodings (spec/30_encoding.md): the command words and the frames. -/

namespace Sys2Proof

/-- Settles O1: the round trip of each row of the opcode table. -/
theorem decodeInvertsEncode : Obligations.DecodeInvertsEncode := by
  intro i
  cases i with
  | init pad => exact Laws.RoundTrip.init pad
  | read pad => exact Laws.RoundTrip.read pad
  | tilt a z => exact Laws.RoundTrip.tilt a z
  | awe a z => exact Laws.RoundTrip.awe a z
  | regwrFrame addr value => exact Laws.RoundTrip.regwrFrame addr value
  | initWrite1 => exact Laws.RoundTrip.initWrite1
  | initWrite2 => exact Laws.RoundTrip.initWrite2
  | initWrite3 => exact Laws.RoundTrip.initWrite3
  | initWrite4 => exact Laws.RoundTrip.initWrite4
  | regrdSelect addr => exact Laws.RoundTrip.regrdSelect addr
  | readSelect => exact Laws.RoundTrip.readSelect
  | readData f => exact Laws.RoundTrip.readData f
  | txqWrite w0 w1 => exact Laws.RoundTrip.txqWrite w0 w1
  | txqWriteThenRead w0 => exact Laws.RoundTrip.txqWriteThenRead w0

/-- Settles O2, format by format: a word is put together again from the fields its decoder reads. -/
theorem encodeInvertsDecode : Obligations.EncodeInvertsDecode := by
  intro w i h
  cases w with
  | cmd c =>
    cases h
    exact ⟨encode_decodeCmd c, wellFormed_decodeCmd c⟩
  | busW2 w =>
    cases h
    exact ⟨encode_decodeW2 w, wellFormed_decodeW2 w⟩
  | busSel1 w =>
    cases h
    exact ⟨encode_decodeSel1 w, wellFormed_decodeSel1 w⟩
  | busData6 w =>
    cases h
    exact ⟨congrArg Encoded.busData6 (patternOfFrame_frameOfPattern w), rfl⟩
  | txq w =>
    rcases decodeTxq_cases h with ⟨w0, w1, rfl, rfl⟩ | ⟨w0, rfl, rfl⟩
    · exact ⟨rfl, rfl⟩
    · exact ⟨rfl, rfl⟩

/-- Settles O3: under the mask a word's opcode is that of the match value. -/
theorem commandOpcodeMap : Obligations.CommandOpcodeMap := by
  intro c
  refine ⟨fun h => ?_, fun h => ?_, fun h => ?_, fun h => ?_⟩
  · rw [decode, decodeCmd_of_op_init (op_of_masked h)]
  · rw [decode, decodeCmd_of_op_read (op_of_masked h)]
  · rw [decode, decodeCmd_of_op_tilt (op_of_masked h)]
  · rw [decode, decodeCmd_of_op_awe (op_of_masked h)]

end Sys2Proof
end

section
/-! SUPPORT. What READ's response carries, the requests and answers on the channels, and the word that a
placed word makes the next edge work on. -/

namespace Sys2Proof.Machine

/-! ## The payload of READ (R87, R155) -/

section
variable (x y z : Int)

theorem samplePayload_x : (samplePayload x y z).extractLsb' 40 20 = tc 20 x := by
  rw [samplePayload, BitVec.extractLsb'_append_eq_of_le (by decide)]
  simp

theorem samplePayload_y : (samplePayload x y z).extractLsb' 20 20 = tc 20 y := by
  rw [samplePayload, BitVec.extractLsb'_append_eq_of_add_le (by decide),
    BitVec.extractLsb'_append_eq_of_le (by decide)]
  simp

theorem samplePayload_z : (samplePayload x y z).extractLsb' 0 20 = tc 20 z := by
  rw [samplePayload, BitVec.extractLsb'_append_eq_of_add_le (by decide),
    BitVec.extractLsb'_append_eq_of_add_le (by decide)]
  simp

end

theorem toInt_bounds_16 (b : BitVec 16) : -32768 ≤ b.toInt ∧ b.toInt ≤ 32767 := by
  have hlo := BitVec.le_toInt b
  have hhi := BitVec.toInt_lt (x := b)
  omega

/-- The range of CONVERT on 16-bit operands (R155). -/
theorem convert_bounds (r off : BitVec 16) :
    -163840 ≤ convert r.toInt off.toInt ∧ convert r.toInt off.toInt ≤ 163835 := by
  have hr := toInt_bounds_16 r
  have hoff := toInt_bounds_16 off
  simp only [convert, snap, addOffset, scale, Config.factorMg]
  split_ifs <;> omega

/-- A converted value is held by a 20-bit field. -/
theorem toInt_tc_convert (r off : BitVec 16) :
    (tc 20 (convert r.toInt off.toInt)).toInt = convert r.toInt off.toInt := by
  obtain ⟨hlo, hhi⟩ := convert_bounds r off
  exact BitVec.toInt_ofInt_eq_self (by decide) (by omega) (by omega)

/-! ## READ in phase RD -/

theorem exec_read_rd {s : State} (hp : s.ph = .rd) (pad : BitVec 40) :
    exec (.read pad) s = readStep s := by
  simp [exec, execRead, hp]

theorem exec_readSelect_rd {s : State} (hp : s.ph = .rd) : exec .readSelect s = readStep s :=
  if_pos hp

theorem exec_readData_rd {s : State} (hp : s.ph = .rd) (f : Frame) :
    exec (.readData f) s = .next (finishRead f (record (.readOk Config.dataBase f) s)) := by
  simp [exec, execReadData, hp]

theorem txaData_txaOfFrame (f : Frame) : txaData (some (txaOfFrame f)) = some f :=
  txaData_eq_some_iff.2 ⟨_, rfl, txaOk_txaOfFrame f, txaFrame_txaOfFrame f⟩

/-! ## The transport channels (R88, R89) -/

theorem initWriteStep_unanswered {s : State} (ha : transportAnswer s = none) (k : Fin 4) :
    initWriteStep k s = .next (transferRequest s) := by
  simp [initWriteStep, regwr_byte, ha, callPrim]

theorem readStep_unanswered {s : State} (ha : transportAnswer s = none) :
    readStep s = .next (transferRequest s) := by
  simp [readStep, regrd_byte, ha, callPrim]

theorem initWriteStep_ok {s : State} {w : TxaWord} (ha : transportAnswer s = some w)
    (hw : txaOk w = true) (k : Fin 4) :
    initWriteStep k s = .next (afterInitWrite k (record (initOkEvent k) s)) := by
  simp [initWriteStep, regwr_byte, ha, hw, callPrim, initOkEvent]

theorem initWriteStep_fail {s : State} {w : TxaWord} (ha : transportAnswer s = some w)
    (hw : txaOk w = false) (k : Fin 4) :
    initWriteStep k s = .next (raise .transportError (record (initFailEvent k) s)) := by
  simp [initWriteStep, regwr_byte, ha, hw, callPrim, initFailEvent]

theorem readStep_ok {s : State} {w : TxaWord} (ha : transportAnswer s = some w)
    (hw : txaOk w = true) : readStep s =
      .next (finishRead (txaFrame w) (record (.readOk Config.dataBase (txaFrame w)) s)) :=
  readStep_of_data (txaData_eq_some_iff.2 ⟨w, ha, hw, rfl⟩)

theorem readStep_fail {s : State} {w : TxaWord} (ha : transportAnswer s = some w)
    (hw : txaOk w = false) :
    readStep s = .next (raise .transportError (record (.readFail Config.dataBase) s)) := by
  simp [readStep, regrd_byte, ha, hw, callPrim]

/-- An edge at which the Block waits for the Transport and takes no answer. -/
theorem edge_unanswered {s : State} (hr : s.pins.rst = false) (hw : waitsForAnswer s.ph = true)
    (ha : transportAnswer s = none) : edge s = .next (transferRequest s) := by
  cases hp : s.ph with
  | init k => rw [edge_init hr hp, initWriteStep_unanswered ha]
  | rd => rw [edge_rd hr hp, readStep_unanswered ha]
  | idle => simp [hp, waitsForAnswer] at hw
  | ang => simp [hp, waitsForAnswer] at hw
  | resp => simp [hp, waitsForAnswer] at hw

theorem transportAnswer_of_txqValid {s : State} (hv : s.txqValid = true) :
    transportAnswer s = none := if_pos hv

theorem transferRequest_of_ready {s : State} (h : s.pins.txqReady = true) :
    transferRequest s = { s with txqValid := false } := by
  simp [transferRequest, h]

theorem transferRequest_of_not_ready {s : State} (h : s.pins.txqReady = false) :
    transferRequest s = s := by
  simp [transferRequest, h]

theorem txqBus_of_txqValid {s : State} (hv : s.txqValid = true) :
    txqBus s = s.inFlight.map requestWord := if_pos hv

theorem txqBus_of_transferred {s : State} (hv : s.txqValid = false) : txqBus s = none := by
  simp [txqBus, hv]

theorem txaReady_eq (s : State) : txaReady s = (waitsForAnswer s.ph && !s.txqValid) := by
  unfold txaReady
  cases s.ph <;> rfl

theorem phaseTxn_ne_none_iff (p : Phase) : phaseTxn p ≠ none ↔ waitsForAnswer p = true := by
  cases p <;> simp [phaseTxn, waitsForAnswer]

/-- The five words of R88. -/
theorem requestWord_phaseTxn {p : Phase} {T : Txn} (h : phaseTxn p = some T) :
    requestWord T = 0x02C0A ∨ requestWord T = 0x02D08 ∨ requestWord T = 0x02E00 ∨
      requestWord T = 0x03100 ∨ requestWord T = 0xE3200 := by
  cases p <;> cases h
  case init k =>
    revert k
    decide
  case rd => decide

/-! ## The response channel (R85) -/

section
variable {s : State}

theorem respEdge_held (h : (s.rspValid && s.pins.rspReady) = false) : respEdge s = .next s := by
  simp [respEdge, h]

theorem respEdge_taken {r : Response} (h : (s.rspValid && s.pins.rspReady) = true)
    (hs : s.rspr = some r) : respEdge s = .next (deliver r s) := by
  simp [respEdge, h, hs]

theorem respEdge_absent (h : (s.rspValid && s.pins.rspReady) = true) (hs : s.rspr = none) :
    respEdge s = .fault (.absentRead .rspr) := by
  simp [respEdge, h, hs]

theorem rspBus_eq_some_iff {r : Response} :
    rspBus s = some r ↔ s.rspValid = true ∧ s.rspr = some r := by
  simp [rspBus]

end

theorem responseWord_eq_some {r : Response} {w : RspWord} (h : responseWord r = some w) :
    ∃ p, r = .ok p ∧ w = 0b00#2 ++ p := by
  cases r with
  | ok p => exact ⟨p, rfl, (Option.some.inj h).symm⟩
  | error e => cases h

/-! ## A command presented outside IDLE (R80) -/

theorem edge_ang_absent {s : State} (hr : s.pins.rst = false) (hp : s.ph = .ang)
    (hc : s.cmdr = none) : edge s = .fault (.absentRead .cmdr) :=
  edge_fault_iff.2 ⟨hr, .inl ⟨rfl, hp, hc⟩⟩

/-- The Host presents `c` at the coming edge, or nothing. -/
def presentCmd (c : Option CmdWord) (s : State) : State :=
  { s with pins := { s.pins with cmd := c } }

/-- What the Host presents at an edge is gone at the next one. -/
theorem onNext_nextEdge_presentCmd (c : Option CmdWord) (o : Result) :
    onNext nextEdge (onNext (presentCmd c) o) = onNext nextEdge o := by
  cases o <;> rfl

section
variable (c : Option CmdWord) (s : State)

@[simp] theorem presentCmd_ph : (presentCmd c s).ph = s.ph := rfl
@[simp] theorem presentCmd_cmdr : (presentCmd c s).cmdr = s.cmdr := rfl
@[simp] theorem presentCmd_rspValid : (presentCmd c s).rspValid = s.rspValid := rfl
@[simp] theorem presentCmd_rspr : (presentCmd c s).rspr = s.rspr := rfl
@[simp] theorem presentCmd_rst : (presentCmd c s).pins.rst = s.pins.rst := rfl
@[simp] theorem presentCmd_rspReady : (presentCmd c s).pins.rspReady = s.pins.rspReady := rfl
@[simp] theorem presentCmd_transportAnswer :
    transportAnswer (presentCmd c s) = transportAnswer s := rfl

theorem initWriteStep_presentCmd (k : Fin 4) :
    initWriteStep k (presentCmd c s) = onNext (presentCmd c) (initWriteStep k s) := by
  cases ha : transportAnswer s with
  | none =>
    rw [initWriteStep_unanswered ha, initWriteStep_unanswered (by simpa using ha)]
    rfl
  | some w =>
    cases hw : txaOk w with
    | true =>
      rw [initWriteStep_ok ha hw, initWriteStep_ok (by simpa using ha) hw]
      fin_cases k <;> rfl
    | false =>
      rw [initWriteStep_fail ha hw, initWriteStep_fail (by simpa using ha) hw]
      rfl

theorem readStep_presentCmd : readStep (presentCmd c s) = onNext (presentCmd c) (readStep s) := by
  cases ha : transportAnswer s with
  | none =>
    rw [readStep_unanswered ha, readStep_unanswered (by simpa using ha)]
    rfl
  | some w =>
    cases hw : txaOk w with
    | true =>
      rw [readStep_ok ha hw, readStep_ok (by simpa using ha) hw]
      rfl
    | false =>
      rw [readStep_fail ha hw, readStep_fail (by simpa using ha) hw]
      rfl

theorem respEdge_presentCmd : respEdge (presentCmd c s) = onNext (presentCmd c) (respEdge s) := by
  cases h : s.rspValid && s.pins.rspReady with
  | false => rw [respEdge_held h, respEdge_held (by simpa using h), onNext_next]
  | true =>
    have h' : ((presentCmd c s).rspValid && (presentCmd c s).pins.rspReady) = true := h
    cases hs : s.rspr with
    | some r =>
      rw [respEdge_taken h hs, respEdge_taken h' (by simpa using hs)]
      rfl
    | none => rw [respEdge_absent h hs, respEdge_absent h' (by simpa using hs), onNext_fault]

variable {s}

/-- In ANG a command in `CMDR` is refused or responds. -/
theorem exec_decodeCmd_ang_presentCmd (hp : s.ph = .ang) (d : CmdWord) :
    exec (decodeCmd d) (presentCmd c s) = onNext (presentCmd c) (exec (decodeCmd d) s) := by
  rcases decodeCmd_cases d with ⟨-, pad, hi⟩ | ⟨-, pad, hi⟩ | ⟨-, a, z, hi⟩ | ⟨-, a, z, hi⟩ <;> rw [hi]
  · simp [exec, execInit, hp]
  · simp [exec, execRead, hp]
  · simp only [exec, execTilt, angleCommand_ang hp, angleCommand_ang (s := presentCmd c s) hp]
    rfl
  · simp only [exec, execAwe, angleCommand_ang hp, angleCommand_ang (s := presentCmd c s) hp]
    rfl

theorem edge_presentCmd (hp : s.ph ≠ .idle) :
    edge (presentCmd c s) = onNext (presentCmd c) (edge s) := by
  cases hr : s.pins.rst with
  | true =>
    rw [edge_reset hr, edge_reset (by simpa using hr), resetEdge_busy hp,
      resetEdge_busy (by simpa using hp), onNext_refused]
  | false =>
    have hr' : (presentCmd c s).pins.rst = false := hr
    cases hph : s.ph with
    | idle => exact absurd hph hp
    | init k => rw [edge_init hr hph, edge_init hr' hph, initWriteStep_presentCmd]
    | rd => rw [edge_rd hr hph, edge_rd hr' hph, readStep_presentCmd]
    | ang =>
      cases hc : s.cmdr with
      | some d =>
        rw [edge_ang_cmdr hr hph hc, edge_ang_cmdr hr' hph hc, exec_decodeCmd_ang_presentCmd c hph]
      | none => rw [edge_ang_absent hr hph hc, edge_ang_absent hr' hph hc, onNext_fault]
    | resp => rw [edge_resp hr hph, edge_resp hr' hph, respEdge_presentCmd]

end

/-! ## Placing a word (log entry 7) -/

theorem placeWord_rst (w : Encoded) (s : State) : (placeWord w s).pins.rst = false := by
  cases w with
  | cmd c => rfl
  | busW2 f =>
    simp only [placeWord]
    split_ifs <;> rfl
  | busSel1 a =>
    simp only [placeWord]
    split_ifs <;> rfl
  | busData6 d => rfl
  | txq q => rfl

/-- A placed word is the one the next edge works on. -/
theorem fetchWord_placeWord (w : Encoded) (s : State) : fetchWord (placeWord w s) = some w := by
  cases w with
  | cmd c => exact fetchWord_idle_cmd rfl rfl
  | busW2 f =>
    have hinit (k : Fin 4) : fetchWord (presentInitFrame k s) = some (.busW2 (initFrameWord k)) :=
      fetchWord_init rfl
    simp only [placeWord]
    split_ifs with h0 h1 h2 h3
    · rw [h0, hinit]
    · rw [h1, hinit]
    · rw [h2, hinit]
    · rw [h3, hinit]
    · exact fetchWord_idle_prim rfl rfl
  | busSel1 a =>
    simp only [placeWord]
    split_ifs with h
    · rw [h]
      exact fetchWord_rd_select rfl rfl
    · exact fetchWord_idle_prim rfl rfl
  | busData6 d =>
    have hd : fetchWord (placeWord (.busData6 d) s) =
        some (.busData6 (patternOfFrame (frameOfPattern d))) :=
      fetchWord_rd_data rfl (txaData_txaOfFrame _)
    rw [hd, patternOfFrame_frameOfPattern]
  | txq q => exact fetchWord_idle_prim rfl rfl

theorem decodeTableWord_eq_some {nbits w : Nat} {i : Instr} (h : decodeTableWord nbits w = some i) :
    ∃ e, tableWord nbits w = some e ∧ decode e = .ok i := by
  unfold decodeTableWord at h
  cases he : tableWord nbits w with
  | none => simp [he] at h
  | some e => cases hd : decode e <;> simp_all

theorem withFetchWord_of_tableWord {nbits w : Nat} {e : Encoded} (h : tableWord nbits w = some e)
    (s : State) : s.withFetchWord nbits w = placeWord e s := by
  simp [State.withFetchWord, placeTableWord, h]

end Sys2Proof.Machine
end

section
/-! PROOFS. The statements on encodings (spec/30_encoding.md): responses, the channels, and placed words. -/

namespace Sys2Proof.Machine

/-- Settles O8: the placed word is the one the next edge works on. -/
theorem placedTableWordRuns : Obligations.PlacedTableWordRuns := by
  intro s nbits w i h
  obtain ⟨e, he, hi⟩ := decodeTableWord_eq_some h
  rw [withFetchWord_of_tableWord he]
  exact step_of_fetchWord (placeWord_rst e s) (fetchWord_placeWord e s) hi

/-- Settles O10: while the request is on the channel no answer is taken, so the edge only transfers it. -/
theorem requestIsTransferredOnce : Obligations.RequestIsTransferredOnce := by
  intro s hr hw hv
  have hstep : step s = .next (nextEdge (transferRequest s)) := by
    rw [step, edge_unanswered hr hw (transportAnswer_of_txqValid hv), onNext_next]
  refine ⟨txqBus_of_txqValid hv, ?_, fun h => ?_, fun h => ?_, txqBus_of_transferred rfl, ?_⟩
  · simp [txaReady_eq, hv]
  · rw [hstep, transferRequest_of_ready h]
  · rw [hstep, transferRequest_of_not_ready h]
  · simp [txaReady_eq, hw]

/-- Settles O11: outside IDLE an edge carries what stands on the command channel along, and it is gone at
the next one. -/
theorem channelHoldsCommandBack : Obligations.ChannelHoldsCommandBack := by
  intro s c hp
  calc step (presentCmd c s) = onNext nextEdge (onNext (presentCmd c) (edge s)) := by
        rw [step, edge_presentCmd c hp]
    _ = step s := onNext_nextEdge_presentCmd c _

/-- Settles O25: READ and its select frame are READ's step, which takes the six bytes from the answer. -/
theorem readReturnsSample : Obligations.ReadReturnsSample := by
  intro pad s b0 b1 b2 b3 b4 b5 hp hq ht
  have ha : txaData (transportAnswer s) = some ⟨b0, b1, b2, b3, b4, b5⟩ := by
    rw [transportAnswer_of_transferred hq, ht]
    exact txaData_txaOfFrame ⟨b0, b1, b2, b3, b4, b5⟩
  have hdata := exec_readData_rd hp ⟨b0, b1, b2, b3, b4, b5⟩
  refine ⟨?_, ?_, hdata⟩
  · rw [exec_read_rd hp, readStep_of_data ha, hdata]
  · rw [exec_readSelect_rd hp, readStep_of_data ha, hdata]

/-- Settles O42: each field is 20 bits of a converted value, whose range 20 bits hold. -/
theorem sampleFieldsHoldSample : Obligations.SampleFieldsHoldSample := by
  intro o f
  refine ⟨?_, ?_, ?_⟩
  · rw [samplePayload_x]
    exact toInt_tc_convert (f.b1 ++ f.b0) o.offX
  · rw [samplePayload_y]
    exact toInt_tc_convert (f.b3 ++ f.b2) o.offY
  · rw [samplePayload_z]
    exact toInt_tc_convert (f.b5 ++ f.b4) o.offZ

/-- Settles O57: by the invariant a transaction is in flight exactly in the phases that wait for an answer,
and it is the phase's. -/
theorem fiveRequestWords : Obligations.FiveRequestWords := by
  intro s hi
  cases hv : s.txqValid with
  | false =>
    have hq := txqBus_of_transferred hv
    simp [hq, txaReady_eq, hv, hi.inFlight_eq, phaseTxn_ne_none_iff]
  | true =>
    have hn : s.inFlight ≠ none := by
      rw [hi.inFlight_eq, phaseTxn_ne_none_iff]
      exact hi.txqValid_waits hv
    obtain ⟨T, hT⟩ := Option.ne_none_iff_exists'.1 hn
    have hq : txqBus s = some (requestWord T) := by rw [txqBus_of_txqValid hv, hT, Option.map_some]
    refine ⟨by simp [hq], by simp [hq, txaReady_eq, hv], fun q h => ?_⟩
    obtain rfl : requestWord T = q := by simpa [hq] using h
    exact requestWord_phaseTxn (hi.inFlight_eq ▸ hT)

/-- Settles O5: the ignored bits of INIT and READ reach a next state in `CMDR` only, at ACCEPT. -/
theorem ignoredCommandBits : Obligations.IgnoredCommandBits := by
  intro p q s c
  cases hp : s.ph with
  | idle =>
    simp only [exec, execInit, execRead, hp]
    cases s.ds <;> exact ⟨rfl, rfl⟩
  | init k => simp [exec, execInit, execRead, hp]
  | rd => simp [exec, execInit, execRead, hp]
  | ang => simp [exec, execInit, execRead, hp]
  | resp => simp [exec, execInit, execRead, hp]

/-- Settles O43, by the table of codes. -/
theorem statusCodes : Obligations.StatusCodes := ⟨fun _ => rfl, rfl, rfl, rfl⟩

/-- Settles O44: only an OK response has a word, its status above its payload. -/
theorem responseWordLayout : Obligations.ResponseWordLayout := by
  refine ⟨fun r w h => ?_, fun p => ⟨_, rfl⟩, fun e => ⟨rfl, ?_⟩, fun s r => rspBus_eq_some_iff⟩
  · obtain ⟨p, rfl, rfl⟩ := responseWord_eq_some h
    rw [BitVec.extractLsb'_append_eq_of_le (by decide),
      BitVec.extractLsb'_append_eq_of_add_le (by decide)]
    simp [statusCode]
  · cases e <;> decide

end Sys2Proof.Machine
end

section
/-! SUPPORT. What the driver sequencer's steps answer (spec/40_driver_sequencer.md): the acceptance of each
command in IDLE, the steps of INIT and READ, the exposed primitives, and the refusals out of turn. -/

namespace Sys2Proof.Machine

/-! ## The commands in IDLE (ACCEPT of R120) -/

section
variable {s : State} (hp : s.ph = .idle)
include hp

theorem exec_init_uninitialized (hd : s.ds = .uninitialized) (pad : BitVec 40) :
    exec (.init pad) s = .next (startInitWrite 0 (latch (cmdWordC 0b00 pad) s)) := by
  simp [exec, execInit, hp, hd]

theorem exec_init_ready (hd : s.ds = .ready) (pad : BitVec 40) :
    exec (.init pad) s = .refused .initWhenReady := by
  simp [exec, execInit, hp, hd]

theorem exec_read_uninitialized (hd : s.ds = .uninitialized) (pad : BitVec 40) :
    exec (.read pad) s = .next (raise .notInitialized (latch (cmdWordC 0b01 pad) s)) := by
  simp [exec, execRead, hp, hd]

theorem exec_read_ready (hd : s.ds = .ready) (pad : BitVec 40) :
    exec (.read pad) s =
      .next (setPhase .rd (request (.writeThenRead Config.dataBase)
        (latch (cmdWordC 0b01 pad) s))) := by
  simp [exec, execRead, hp, hd]

theorem angleCommand_idle (op : BitVec 2) (a z : Comp) :
    angleCommand op a z s = .next (setPhase .ang (latch (cmdWordA op a z) s)) := by
  simp [angleCommand, hp]

end

/-! ## INIT and READ in their phases -/

theorem exec_init_init {s : State} {k : Fin 4} (hp : s.ph = .init k) (pad : BitVec 40) :
    exec (.init pad) s = initWriteStep k s := by
  simp [exec, execInit, hp]

/-- INIT-OK-k, by INIT and by the write frame in flight (log entry 17). -/
theorem exec_init_answered_ok {s : State} {w : TxaWord} {k : Fin 4} (hp : s.ph = .init k)
    (hq : s.txqValid = false) (ht : s.pins.txa = some w) (hw : txaOk w = true) (pad : BitVec 40) :
    exec (.init pad) s = exec (initInstr k) s ∧
      exec (initInstr k) s = .next (afterInitWrite k (record (initOkEvent k) s)) := by
  rw [exec_init_init hp, exec_initInstr hp]
  exact ⟨rfl, initWriteStep_ok (transportAnswer_eq_some.2 ⟨hq, ht⟩) hw k⟩

/-! ## The primitives on the model's own port (log entries 4 and 16) -/

section
variable {s : State} {w : TxaWord} (hp : s.ph = .idle) (ht : s.pins.txa = some w)
include hp ht

theorem exposedWrite_ok (hw : txaOk w = true) (a v : Byte) :
    exposedWrite a v s = .next (record (.writeOk a v) s) := by
  simp [exposedWrite, hp, regwr_byte, ht, hw, callPrim]

theorem exposedWrite_fail (hw : txaOk w = false) (a v : Byte) :
    exposedWrite a v s = .next (raise .transportError (record (.writeFail a v) s)) := by
  simp [exposedWrite, hp, regwr_byte, ht, hw, callPrim]

theorem exposedRead_ok (hw : txaOk w = true) (a : Byte) :
    exposedRead a s = .next (record (.readOk a (txaFrame w)) s) := by
  simp [exposedRead, hp, regrd_byte, ht, hw, callPrim]

theorem exposedRead_fail (hw : txaOk w = false) (a : Byte) :
    exposedRead a s = .next (raise .transportError (record (.readFail a) s)) := by
  simp [exposedRead, hp, regrd_byte, ht, hw, callPrim]

end

theorem exec_initInstr_eq_initFrame (k : Fin 4) (s : State) :
    exec (initInstr k) s = initFrame k s := by
  fin_cases k <;> rfl

/-- Outside INITk the frame of write `k`+1 is the primitive. -/
theorem exec_initInstr_of_ne {s : State} {k : Fin 4} (hp : s.ph ≠ .init k) :
    exec (initInstr k) s = exposedWrite (Config.initSeq k).1 (Config.initSeq k).2 s := by
  rw [exec_initInstr_eq_initFrame, initFrame, if_neg hp]

/-- Outside RD the select frame of READ is the primitive. -/
theorem exec_readSelect_of_ne {s : State} (hp : s.ph ≠ .rd) :
    exec .readSelect s = exposedRead Config.dataBase s := if_neg hp

/-! ## Refusals out of turn (R120, R61) -/

section
variable {s : State}

theorem exec_init_out_of_turn (hp : s.ph = .rd ∨ s.ph = .ang ∨ s.ph = .resp) (pad : BitVec 40) :
    exec (.init pad) s = .refused .commandWhileBusy := by
  rcases hp with hp | hp | hp <;> simp [exec, execInit, hp]

theorem exec_read_out_of_turn (hp : s.ph ≠ .idle) (hr : s.ph ≠ .rd) (pad : BitVec 40) :
    exec (.read pad) s = .refused .commandWhileBusy := by
  cases h : s.ph <;> simp_all [exec, execRead]

theorem angleCommand_out_of_turn (hp : s.ph ≠ .idle) (ha : s.ph ≠ .ang) (op : BitVec 2)
    (a z : Comp) : angleCommand op a z s = .refused .commandWhileBusy := by
  cases h : s.ph <;> simp_all [angleCommand]

theorem exposedWrite_busy (hp : s.ph ≠ .idle) (a v : Byte) :
    exposedWrite a v s = .refused .transactionWhileBusy := by
  cases h : s.ph <;> simp_all [exposedWrite]

theorem exposedRead_busy (hp : s.ph ≠ .idle) (a : Byte) :
    exposedRead a s = .refused .transactionWhileBusy := by
  cases h : s.ph <;> simp_all [exposedRead]

theorem exec_readData_out_of_turn (hp : s.ph ≠ .rd) (f : Frame) :
    exec (.readData f) s = .refused .answerWithoutRequest := by
  cases h : s.ph <;> simp_all [exec, execReadData]

end

/-! ## The range check of the primitives (R111, R112) -/

theorem fitsByte_of_outside {i : Int} (h : i < 0 ∨ 255 < i) : fitsByte i = false := by
  simp only [fitsByte, decide_eq_false_iff_not]
  omega

theorem regrd_out_of_range {addr : Int} (h : fitsByte addr = false) (ans : Option TxaWord)
    (s : State) : regrd addr ans s = .raised .invalidRegisterValue s := by
  simp [regrd, h]

theorem regwr_out_of_range {addr value : Int} (h : fitsByte addr = false ∨ fitsByte value = false)
    (ans : Option TxaWord) (s : State) :
    regwr addr value ans s = .raised .invalidRegisterValue s := by
  rcases h with h | h <;> simp [regwr, h]

/-! ## What the frames and READ leave unchanged -/

/-- `DS` and `CMDR` are as before. -/
def KeepsDriver (s t : State) : Prop := t.ds = s.ds ∧ t.cmdr = s.cmdr

section
variable {s t : State}

theorem KeepsDriver.imp {p q r : Prop} (h : KeepsDriver s t) :
    t.ds = s.ds ∧ (p → q → r → t.cmdr = s.cmdr) :=
  ⟨h.1, fun _ _ _ => h.2⟩

theorem exposedWrite_keepsDriver {a v : Byte} (h : exposedWrite a v s = .next t) :
    KeepsDriver s t := by
  obtain ⟨-, rfl | ⟨w, -, -, rfl⟩ | ⟨w, -, -, rfl⟩⟩ := exposedWrite_cases h <;> exact ⟨rfl, rfl⟩

theorem exposedRead_keepsDriver {a : Byte} (h : exposedRead a s = .next t) : KeepsDriver s t := by
  obtain ⟨-, rfl | ⟨w, -, -, rfl⟩ | ⟨w, -, -, rfl⟩⟩ := exposedRead_cases h <;> exact ⟨rfl, rfl⟩

theorem readStep_keepsDriver (h : readStep s = .next t) : KeepsDriver s t := by
  obtain rfl | ⟨w, -, -, rfl⟩ | ⟨w, -, -, rfl⟩ := readStep_cases h <;> exact ⟨rfl, rfl⟩

@[simp] theorem afterInitWrite_cmdr (k : Fin 4) (s : State) : (afterInitWrite k s).cmdr = s.cmdr := by
  fin_cases k <;> rfl

/-- A frame of INIT writes `DS` only as INIT's own last write. -/
theorem initFrame_keepsDriver {k : Fin 4} (hk : k = 3 → s.ph ≠ .init 3)
    (h : initFrame k s = .next t) : KeepsDriver s t := by
  by_cases hp : s.ph = .init k
  · have h3 : k ≠ 3 := by
      rintro rfl
      exact hk rfl hp
    rw [initFrame, if_pos hp] at h
    obtain rfl | ⟨w, -, -, rfl⟩ | ⟨w, -, -, rfl⟩ := initWriteStep_cases h
    · exact ⟨rfl, rfl⟩
    · exact ⟨by simp [afterInitWrite_ds, h3], by simp⟩
    · exact ⟨rfl, rfl⟩
  · rw [initFrame, if_neg hp] at h
    exact exposedWrite_keepsDriver h

theorem exec_readSelect_keepsDriver (h : exec .readSelect s = .next t) : KeepsDriver s t := by
  by_cases hp : s.ph = .rd
  · exact readStep_keepsDriver (exec_readSelect_rd hp ▸ h)
  · exact exposedRead_keepsDriver (exec_readSelect_of_ne hp ▸ h)

theorem exec_readData_keepsDriver {f : Frame} (h : exec (.readData f) s = .next t) :
    KeepsDriver s t := by
  by_cases hp : s.ph = .rd
  · rw [exec_readData_rd hp, Host.Outcome.next.injEq] at h
    exact h ▸ ⟨rfl, rfl⟩
  · simp [exec_readData_out_of_turn hp] at h

/-- READ never writes `DS` (R114). -/
theorem exec_read_ds {pad : BitVec 40} (h : exec (.read pad) s = .next t) : t.ds = s.ds := by
  by_cases hp : s.ph = .idle
  · cases hd : s.ds with
    | uninitialized =>
      rw [exec_read_uninitialized hp hd, Host.Outcome.next.injEq] at h
      exact h ▸ hd
    | ready =>
      rw [exec_read_ready hp hd, Host.Outcome.next.injEq] at h
      exact h ▸ hd
  · by_cases hr : s.ph = .rd
    · exact (readStep_keepsDriver (exec_read_rd hr pad ▸ h)).1
    · simp [exec_read_out_of_turn hp hr] at h

/-- An angle command leaves `DS`, `FRAME` and the bus as they are, and in ANG `CMDR` too (R119). -/
theorem angleCommand_frame {op : BitVec 2} {a z : Comp} (h : angleCommand op a z s = .next t) :
    t.ds = s.ds ∧ t.frame = s.frame ∧ t.inFlight = s.inFlight ∧ t.trace = s.trace ∧
      (s.ph = .ang → t.cmdr = s.cmdr) := by
  obtain ⟨hp, rfl⟩ | ⟨-, rfl⟩ := angleCommand_cases h
  · simp [hp]
  · simp

end

end Sys2Proof.Machine
end

section
/-! PROOFS. The statements on the driver sequencer (spec/40_driver_sequencer.md): single steps. -/

namespace Sys2Proof.Machine

/-- Settles O12: the edge of RESP with both signals 1. -/
theorem responseIsDelivered : Obligations.ResponseIsDelivered := by
  intro s r hr hp hv hy hs
  have ht : (s.rspValid && s.pins.rspReady) = true := by simp [hv, hy]
  rw [step, edge_resp hr hp, respEdge_taken ht hs]
  rfl

/-- Settles O17. -/
theorem initIsAccepted : Obligations.InitIsAccepted := fun pad _ hp hd =>
  exec_init_uninitialized hp hd pad

/-- Settles O21. -/
theorem initWhenReadyIsRefused : Obligations.InitWhenReadyIsRefused := fun pad _ hp hd =>
  exec_init_ready hp hd pad

/-- Settles O23. -/
theorem readBeforeInitFails : Obligations.ReadBeforeInitFails := fun pad _ hp hd =>
  exec_read_uninitialized hp hd pad

/-- Settles O24. -/
theorem readIsAccepted : Obligations.ReadIsAccepted := fun pad _ hp hd =>
  exec_read_ready hp hd pad

/-- Settles O28: both are the one angle command of R119. -/
theorem angleCommandsAreAccepted : Obligations.AngleCommandsAreAccepted := fun a z _ hp =>
  ⟨angleCommand_idle hp 0b10 a z, angleCommand_idle hp 0b11 a z⟩

/-- Settles O18: INIT-OK-k at k = 0, 1, 2. -/
theorem initGoesToNextWrite : Obligations.InitGoesToNextWrite := by
  intro pad s w hq ht hw
  exact ⟨fun hp => exec_init_answered_ok hp hq ht hw pad,
    fun hp => exec_init_answered_ok hp hq ht hw pad,
    fun hp => exec_init_answered_ok hp hq ht hw pad⟩

/-- Settles O19: INIT-OK-k at k = 3. -/
theorem initCompletes : Obligations.InitCompletes := fun pad _ _ hq ht hw hp =>
  exec_init_answered_ok hp hq ht hw pad

/-- Settles O20: INIT and the frame in flight are INIT's own write, answered Fail. -/
theorem initStopsAtFailedWrite : Obligations.InitStopsAtFailedWrite := by
  intro pad s w k hq ht hw hp
  rw [exec_init_init hp, exec_initInstr hp]
  exact ⟨rfl, initWriteStep_fail (transportAnswer_eq_some.2 ⟨hq, ht⟩) hw k⟩

/-- Settles O26: READ and its select frame are READ's own read, answered Fail. -/
theorem failedReadReportsTransportError : Obligations.FailedReadReportsTransportError := by
  intro pad s w hp hq ht hw
  rw [exec_read_rd hp, exec_readSelect_rd hp]
  exact ⟨rfl, readStep_fail (transportAnswer_eq_some.2 ⟨hq, ht⟩) hw⟩

/-- Settles O45: the range check stands before the use of the answer. -/
theorem rangeCheckComesFirst : Obligations.RangeCheckComesFirst := by
  intro addr value ans s
  refine ⟨fun h => regwr_out_of_range ?_ ans s,
    fun h => regrd_out_of_range (fitsByte_of_outside h) ans s⟩
  rcases h with h | h | h | h
  · exact .inl (fitsByte_of_outside (.inl h))
  · exact .inl (fitsByte_of_outside (.inr h))
  · exact .inr (fitsByte_of_outside (.inl h))
  · exact .inr (fitsByte_of_outside (.inr h))

/-- Settles O46: in IDLE each of these frames is the exposed REGWR of its two bytes. -/
theorem writeFramesRunWritePrimitive : Obligations.WriteFramesRunWritePrimitive := by
  intro i a v s w hi hp ht
  have he : exec i s = exposedWrite a v s := by
    rcases hi with rfl | rfl | ⟨k, rfl, rfl, rfl⟩
    · rfl
    · rfl
    · exact exec_initInstr_of_ne (by simp [hp])
  rw [he]
  exact ⟨fun hw => exposedWrite_ok hp ht hw a v, fun hw => exposedWrite_fail hp ht hw a v⟩

/-- Settles O47: in IDLE each of these frames is the exposed REGRD of its address. -/
theorem selectFramesRunReadPrimitive : Obligations.SelectFramesRunReadPrimitive := by
  intro i a s w hi hp ht
  have he : exec i s = exposedRead a s := by
    rcases hi with rfl | rfl | ⟨rfl, rfl⟩
    · rfl
    · rfl
    · exact exec_readSelect_of_ne (by simp [hp])
  rw [he]
  exact ⟨fun hw => exposedRead_ok hp ht hw a, fun hw => exposedRead_fail hp ht hw a⟩

/-- Settles O49: each instruction's refusal in the phases that are not its own. -/
theorem outOfTurnIsRefused : Obligations.OutOfTurnIsRefused := by
  intro s
  refine ⟨fun pad hp => ?init, fun pad hp hr => ?read, fun a z hp ha => ?angle, fun a v hp => ?prims,
    fun k hp hk => ?initFrames, fun hp hr => ?select, fun f hp => ?data⟩
  case init => exact exec_init_out_of_turn hp pad
  case read => exact exec_read_out_of_turn hp hr pad
  case angle => exact ⟨angleCommand_out_of_turn hp ha _ a z, angleCommand_out_of_turn hp ha _ a z⟩
  case prims =>
    exact ⟨exposedWrite_busy hp a v, exposedWrite_busy hp a v, exposedRead_busy hp a,
      exposedRead_busy hp a⟩
  case initFrames => rw [exec_initInstr_of_ne hk, exposedWrite_busy hp]
  case select => rw [exec_readSelect_of_ne hr, exposedRead_busy hp]
  case data => exact exec_readData_out_of_turn hp f

/-- Settles O59: both are the one angle command of R119. -/
theorem angleCommandsTouchNoBus : Obligations.AngleCommandsTouchNoBus := by
  intro a z s t h
  rcases h with h | h <;> exact angleCommand_frame h

/-- Settles O60: the frames and requests write neither `DS` nor `CMDR`, and READ, TILT and AWE do not write
`DS`. -/
theorem readAndPrimitivesKeepDriverState : Obligations.ReadAndPrimitivesKeepDriverState := by
  intro i s t h hinit hlast
  cases i with
  | init pad => exact absurd rfl (hinit pad)
  | read pad => exact ⟨exec_read_ds h, fun hn => absurd rfl (hn pad)⟩
  | tilt a z => exact ⟨(angleCommand_frame h).1, fun _ hn => absurd rfl (hn a z)⟩
  | awe a z => exact ⟨(angleCommand_frame h).1, fun _ _ hn => absurd rfl (hn a z)⟩
  | regwrFrame a v => exact (exposedWrite_keepsDriver h).imp
  | initWrite1 => exact (initFrame_keepsDriver (k := 0) (fun h3 => absurd h3 (by decide)) h).imp
  | initWrite2 => exact (initFrame_keepsDriver (k := 1) (fun h3 => absurd h3 (by decide)) h).imp
  | initWrite3 => exact (initFrame_keepsDriver (k := 2) (fun h3 => absurd h3 (by decide)) h).imp
  | initWrite4 => exact (initFrame_keepsDriver (k := 3) (fun _ => hlast rfl) h).imp
  | regrdSelect a => exact (exposedRead_keepsDriver h).imp
  | readSelect => exact (exec_readSelect_keepsDriver h).imp
  | readData f => exact (exec_readData_keepsDriver h).imp
  | txqWrite a v => exact (exposedWrite_keepsDriver h).imp
  | txqWriteThenRead a => exact (exposedRead_keepsDriver h).imp

end Sys2Proof.Machine
end

section
/-! SUPPORT. An edge against the transition table of R120, and whole commands over any waits of the
Transport. -/

namespace Sys2Proof.Machine

/-! ## The edges of the transition table -/

section
variable {s : State} {c : CmdWord} (hr : s.pins.rst = false)
include hr

section
variable (hp : s.ph = .idle) (hc : s.pins.cmd = some c)
include hp hc

theorem edge_acceptInit (ho : c.extractLsb' 40 2 = 0b00) (hd : s.ds = .uninitialized) :
    edge s = .next (startInitWrite 0 (latch c s)) := by
  rw [edge_idle_cmd hr hp hc, decodeCmd_of_op_init ho, exec_init_uninitialized hp hd, ← ho,
    cmdWordC_fields]

theorem edge_initWhenReady (ho : c.extractLsb' 40 2 = 0b00) (hd : s.ds = .ready) :
    edge s = .refused .initWhenReady := by
  rw [edge_idle_cmd hr hp hc, decodeCmd_of_op_init ho, exec_init_ready hp hd]

theorem edge_acceptReadUninitialized (ho : c.extractLsb' 40 2 = 0b01)
    (hd : s.ds = .uninitialized) : edge s = .next (raise .notInitialized (latch c s)) := by
  rw [edge_idle_cmd hr hp hc, decodeCmd_of_op_read ho, exec_read_uninitialized hp hd, ← ho,
    cmdWordC_fields]

theorem edge_acceptReadReady (ho : c.extractLsb' 40 2 = 0b01) (hd : s.ds = .ready) :
    edge s = .next (setPhase .rd (request (.writeThenRead Config.dataBase) (latch c s))) := by
  rw [edge_idle_cmd hr hp hc, decodeCmd_of_op_read ho, exec_read_ready hp hd, ← ho,
    cmdWordC_fields]

theorem edge_acceptAngle (ho : c.extractLsb' 40 2 = 0b10 ∨ c.extractLsb' 40 2 = 0b11) :
    edge s = .next (setPhase .ang (latch c s)) := by
  have hA := cmdWordA_fields c
  rw [edge_idle_cmd hr hp hc]
  rcases ho with ho | ho <;> rw [ho] at hA
  · rw [decodeCmd_of_op_tilt ho]
    exact (angleCommand_idle hp _ _ _).trans (by rw [hA])
  · rw [decodeCmd_of_op_awe ho]
    exact (angleCommand_idle hp _ _ _).trans (by rw [hA])

end

section
variable {w : TxaWord} (hq : s.txqValid = false) (ht : s.pins.txa = some w)
include hq ht

theorem edge_initOk {k : Fin 4} (hp : s.ph = .init k) (hw : txaOk w = true) :
    edge s = .next (afterInitWrite k (record (initOkEvent k) s)) := by
  rw [edge_init hr hp, initWriteStep_ok (transportAnswer_eq_some.2 ⟨hq, ht⟩) hw]

theorem edge_initFail {k : Fin 4} (hp : s.ph = .init k) (hw : txaOk w = false) :
    edge s = .next (raise .transportError (record (initFailEvent k) s)) := by
  rw [edge_init hr hp, initWriteStep_fail (transportAnswer_eq_some.2 ⟨hq, ht⟩) hw]

theorem edge_readOk (hp : s.ph = .rd) (hw : txaOk w = true) : edge s =
    .next (finishRead (txaFrame w) (record (.readOk Config.dataBase (txaFrame w)) s)) := by
  rw [edge_rd hr hp, readStep_ok (transportAnswer_eq_some.2 ⟨hq, ht⟩) hw]

theorem edge_readFail (hp : s.ph = .rd) (hw : txaOk w = false) :
    edge s = .next (raise .transportError (record (.readFail Config.dataBase) s)) := by
  rw [edge_rd hr hp, readStep_fail (transportAnswer_eq_some.2 ⟨hq, ht⟩) hw]

end

theorem edge_angleDone (hp : s.ph = .ang) (hc : s.cmdr = some c)
    (ho : c.extractLsb' 40 2 = 0b10 ∨ c.extractLsb' 40 2 = 0b11) : edge s =
      .next (respond (anglePayload (angle (c.extractLsb' 20 20) (c.extractLsb' 0 20))) s) := by
  have hA := cmdWordA_fields c
  refine edge_ang hr hp ?_
  rcases ho with ho | ho <;> rw [ho] at hA
  · exact .inl (by rw [hA, hc])
  · exact .inr (by rw [hA, hc])

theorem edge_deliver {r : Response} (hp : s.ph = .resp) (hv : s.rspValid = true)
    (hy : s.pins.rspReady = true) (hs : s.rspr = some r) : edge s = .next (deliver r s) := by
  rw [edge_resp hr hp, respEdge_taken (by simp [hv, hy]) hs]

/-- A step of R120's table is taken when its guard holds. -/
theorem edge_of_tableStep {t : State} (h : TableStep s t) : edge s = .next t := by
  cases h with
  | acceptInit c hp hc ho hd => exact edge_acceptInit hr hp hc ho hd
  | acceptReadU c hp hc ho hd => exact edge_acceptReadUninitialized hr hp hc ho hd
  | acceptReadR c hp hc ho hd => exact edge_acceptReadReady hr hp hc ho hd
  | acceptAngle c hp hc ho => exact edge_acceptAngle hr hp hc ho
  | initOk0 w hp hq ht hw => exact edge_initOk hr hq ht hp hw
  | initOk1 w hp hq ht hw => exact edge_initOk hr hq ht hp hw
  | initOk2 w hp hq ht hw => exact edge_initOk hr hq ht hp hw
  | initOk3 w hp hq ht hw => exact edge_initOk hr hq ht hp hw
  | initFail k w hp hq ht hw => exact edge_initFail hr hq ht hp hw
  | readOk w hp hq ht hw => exact edge_readOk hr hq ht hp hw
  | readFail w hp hq ht hw => exact edge_readFail hr hq ht hp hw
  | angleDone c hp hc ho => exact edge_angleDone hr hp hc ho
  | deliver r hp hv hy hs => exact edge_deliver hr hp hv hy hs

end

/-! The other direction: an edge that answers a next state took a step of the table or waited. -/

/-- Nothing changed, but that the Transport may have taken the request (R88). -/
def Waited (s t : State) : Prop :=
  t = s ∨ (s.txqValid = true ∧ s.pins.txqReady = true ∧ t = { s with txqValid := false })

theorem waited_transferRequest (s : State) : Waited s (transferRequest s) := by
  cases hy : s.pins.txqReady with
  | false => exact .inl (transferRequest_of_not_ready hy)
  | true =>
    cases hq : s.txqValid with
    | false => exact .inl (by rw [transferRequest, hq, Bool.false_and, ← hq])
    | true => exact .inr ⟨hq, hy, transferRequest_of_ready hy⟩

/-- INIT-OK-k is a row of the table for each k. -/
theorem tableStep_initOk {s : State} {k : Fin 4} {w : TxaWord} (hp : s.ph = .init k)
    (ha : transportAnswer s = some w) (hw : txaOk w = true) :
    TableStep s (afterInitWrite k (record (initOkEvent k) s)) := by
  obtain ⟨hq, ht⟩ := transportAnswer_eq_some.1 ha
  fin_cases k
  · exact .initOk0 w hp hq ht hw
  · exact .initOk1 w hp hq ht hw
  · exact .initOk2 w hp hq ht hw
  · exact .initOk3 w hp hq ht hw

section
variable {s t : State} (hr : s.pins.rst = false) (h : edge s = .next t)
include hr h

/-- The step of the table whose next state the edge answers. -/
theorem tableStep_of_edge_eq {u : State} (hu : TableStep s u) : TableStep s t := by
  have he := (edge_of_tableStep hr hu).symm.trans h
  exact Host.Outcome.next.inj he ▸ hu

theorem tableStep_of_edge_command {c : CmdWord} (hp : s.ph = .idle) (hc : s.pins.cmd = some c) :
    TableStep s t := by
  rcases decodeCmd_cases c with ⟨ho, -⟩ | ⟨ho, -⟩ | ⟨ho, -⟩ | ⟨ho, -⟩
  · cases hd : s.ds with
    | uninitialized => exact tableStep_of_edge_eq hr h (.acceptInit c hp hc ho hd)
    | ready => simp [edge_initWhenReady hr hp hc ho hd] at h
  · cases hd : s.ds with
    | uninitialized => exact tableStep_of_edge_eq hr h (.acceptReadU c hp hc ho hd)
    | ready => exact tableStep_of_edge_eq hr h (.acceptReadR c hp hc ho hd)
  · exact tableStep_of_edge_eq hr h (.acceptAngle c hp hc (.inl ho))
  · exact tableStep_of_edge_eq hr h (.acceptAngle c hp hc (.inr ho))

theorem tableStep_or_waited_init {k : Fin 4} (hp : s.ph = .init k) : TableStep s t ∨ Waited s t := by
  rw [edge_init hr hp] at h
  obtain rfl | ⟨w, ha, hw, rfl⟩ | ⟨w, ha, hw, rfl⟩ := initWriteStep_cases h
  · exact .inr (waited_transferRequest s)
  · exact .inl (tableStep_initOk hp ha hw)
  · obtain ⟨hq, ht⟩ := transportAnswer_eq_some.1 ha
    exact .inl (.initFail k w hp hq ht hw)

theorem tableStep_or_waited_rd (hp : s.ph = .rd) : TableStep s t ∨ Waited s t := by
  rw [edge_rd hr hp] at h
  obtain rfl | ⟨w, ha, hw, rfl⟩ | ⟨w, ha, hw, rfl⟩ := readStep_cases h
  · exact .inr (waited_transferRequest s)
  · obtain ⟨hq, ht⟩ := transportAnswer_eq_some.1 ha
    exact .inl (.readOk w hp hq ht hw)
  · obtain ⟨hq, ht⟩ := transportAnswer_eq_some.1 ha
    exact .inl (.readFail w hp hq ht hw)

theorem tableStep_of_edge_ang (hp : s.ph = .ang) : TableStep s t := by
  cases hc : s.cmdr with
  | none => simp [edge_ang_absent hr hp hc] at h
  | some c =>
    rcases decodeCmd_cases c with ⟨-, pad, hi⟩ | ⟨-, pad, hi⟩ | ⟨ho, -⟩ | ⟨ho, -⟩
    · simp [edge_ang_cmdr hr hp hc, hi, exec_init_out_of_turn (.inr (.inl hp))] at h
    · simp [edge_ang_cmdr hr hp hc, hi, exec_read_out_of_turn, hp] at h
    · exact tableStep_of_edge_eq hr h (.angleDone c hp hc (.inl ho))
    · exact tableStep_of_edge_eq hr h (.angleDone c hp hc (.inr ho))

theorem tableStep_or_waited_resp (hp : s.ph = .resp) : TableStep s t ∨ Waited s t := by
  rw [edge_resp hr hp] at h
  cases hv : s.rspValid && s.pins.rspReady with
  | false =>
    rw [respEdge_held hv, Host.Outcome.next.injEq] at h
    exact .inr (.inl h.symm)
  | true =>
    cases hs : s.rspr with
    | none => simp [respEdge_absent hv hs] at h
    | some r =>
      rw [respEdge_taken hv hs, Host.Outcome.next.injEq] at h
      obtain ⟨hv, hy⟩ := Bool.and_eq_true_iff.1 hv
      exact .inl (h ▸ .deliver r hp hv hy hs)

/-- An edge that answers a next state took a step of the table or waited. -/
theorem tableStep_or_waited (hn : s.ph = .idle → s.pins.cmd = none → s.pins.prim = none) :
    TableStep s t ∨ Waited s t := by
  cases hp : s.ph with
  | idle =>
    cases hc : s.pins.cmd with
    | some c => exact .inl (tableStep_of_edge_command hr h hp hc)
    | none =>
      rw [edge_idle_nothing hr hp hc (hn hp hc), Host.Outcome.next.injEq] at h
      exact .inr (.inl h.symm)
  | init k => exact tableStep_or_waited_init hr h hp
  | rd => exact tableStep_or_waited_rd hr h hp
  | ang => exact .inl (tableStep_of_edge_ang hr h hp)
  | resp => exact tableStep_or_waited_resp hr h hp

end

/-! ## The Transport's waits (R88, R206) -/

/-- The state with these pins at the coming edge and the edges after it. -/
def drivenBy (ps : List Pins) (s : State) : State :=
  { s with pins := ps.headD {}, inputs := ps.tail }

theorem step_of_edge {s t : State} (h : edge s = .next t) (hi : t.inputs = s.inputs) :
    step s = .next (drivenBy s.inputs t) := by
  rw [step, h, onNext_next, nextEdge, hi]
  rfl

/-- A list of edges at each of which nothing changes but the environment. -/
theorem runSteps_unchanged {s : State} (qs : List Pins)
    (h : ∀ p ∈ qs, ∀ ps, step (drivenBy (p :: ps) s) = .next (drivenBy ps s))
    (ps : List Pins) (n : Nat) :
    runSteps (qs.length + n) (drivenBy (qs ++ ps) s) = runSteps n (drivenBy ps s) := by
  induction qs with
  | nil => rw [List.length_nil, Nat.zero_add, List.nil_append]
  | cons q qs ih =>
    have hq := h q List.mem_cons_self (qs ++ ps)
    rw [List.length_cons, Nat.succ_add, List.cons_append, runSteps_succ _ hq]
    exact ih fun p hp => h p (List.mem_cons_of_mem q hp)

section
variable {s : State} (hw : waitsForAnswer s.ph = true)
include hw

theorem step_waiting {p : Pins} {ps : List Pins} (hr : p.rst = false)
    (ha : transportAnswer (drivenBy (p :: ps) s) = none) :
    step (drivenBy (p :: ps) s) =
      .next (drivenBy ps { s with txqValid := s.txqValid && !p.txqReady }) := by
  rw [step_of_edge (edge_unanswered (s := drivenBy (p :: ps) s) hr hw ha) rfl]
  rfl

/-- From a request to the edge of its answer: the request is transferred, and nothing else changes. -/
theorem runSteps_wait (hv : s.txqValid = true) {w : Wait} (hok : w.Ok) (ps : List Pins) (n : Nat) :
    runSteps (w.held.length + (w.quiet.length + (n + 1) + 1))
        (drivenBy (w.held ++ w.taken :: (w.quiet ++ w.answer :: ps)) s) =
      runSteps (n + 1) (drivenBy (w.answer :: ps) { s with txqValid := false }) := by
  obtain ⟨hheld, ⟨htr, hty⟩, hquiet, -⟩ := hok
  have htaken (qs : List Pins) : step (drivenBy (w.taken :: qs) s) =
      .next (drivenBy qs { s with txqValid := false }) := by
    rw [step_waiting hw htr (transportAnswer_of_txqValid hv), hv, hty]
    rfl
  rw [runSteps_unchanged w.held, runSteps_succ _ (htaken _), runSteps_unchanged w.quiet]
  · intro p hp qs
    obtain ⟨hr, ha⟩ := hquiet p hp
    exact step_waiting (s := { s with txqValid := false }) hw hr ha
  · intro p hp qs
    obtain ⟨hr, hy⟩ := hheld p hp
    rw [step_waiting hw hr (transportAnswer_of_txqValid hv), hy, Bool.not_false, Bool.and_true]

end

theorem answers_of_waitOk {w : Wait} (hok : w.Ok) : Answers w.answer w.word := by
  obtain ⟨-, -, -, hans⟩ := hok
  exact hans

theorem afterInitWrite_drivenBy (k : Fin 4) (ps : List Pins) (s : State) :
    afterInitWrite k (drivenBy ps s) = drivenBy ps (afterInitWrite k s) := by
  fin_cases k <;> rfl

/-- The run over the edges of these waits; what is driven after them is `rest`. -/
def runWaits (ws : List Wait) (rest : List Pins) (s : State) : Result :=
  runSteps (waitEdges ws).length (drivenBy (waitEdges ws ++ rest) s)

theorem runWaits_nil (rest : List Pins) (s : State) :
    runWaits [] rest s = .next (drivenBy rest s) := rfl

section
variable {s : State} {w : Wait} (hv : s.txqValid = true) (hok : w.Ok) (ws : List Wait)
  (rest : List Pins)
include hv hok

/-- A wait in INIT or READ, then the edge of its answer: `u` is what that edge answers. -/
theorem runWaits_cons (hp : waitsForAnswer s.ph = true) {u : State}
    (ha : edge (drivenBy (w.answer :: (waitEdges ws ++ rest)) { s with txqValid := false }) =
      .next (drivenBy (w.answer :: (waitEdges ws ++ rest)) u)) :
    runWaits (w :: ws) rest s = runWaits ws rest u := by
  have hlen : (waitEdges (w :: ws)).length =
      w.held.length + (w.quiet.length + ((waitEdges ws).length + 1) + 1) := by simp [waitEdges]
  have happ : waitEdges (w :: ws) ++ rest =
      w.held ++ w.taken :: (w.quiet ++ w.answer :: (waitEdges ws ++ rest)) := by simp [waitEdges]
  rw [runWaits, hlen, happ, runSteps_wait hp hv hok, runSteps_succ _ (step_of_edge ha rfl)]
  rfl

theorem runWaits_init_ok {k : Fin 4} (hp : s.ph = .init k) (hw : txaOk w.word = true) :
    runWaits (w :: ws) rest s = runWaits ws rest (afterInitWrite k (record (initOkEvent k) s)) := by
  obtain ⟨hr, ht⟩ := answers_of_waitOk hok
  refine runWaits_cons hv hok ws rest (by rw [hp]; rfl) ?_
  rw [← afterInitWrite_drivenBy]
  exact edge_initOk hr rfl ht hp hw

theorem runWaits_init_fail {k : Fin 4} (hp : s.ph = .init k) (hw : txaOk w.word = false) :
    runWaits (w :: ws) rest s =
      runWaits ws rest (raise .transportError (record (initFailEvent k) s)) := by
  obtain ⟨hr, ht⟩ := answers_of_waitOk hok
  exact runWaits_cons hv hok ws rest (by rw [hp]; rfl) (edge_initFail hr rfl ht hp hw)

theorem runWaits_read_ok (hp : s.ph = .rd) (hw : txaOk w.word = true) :
    runWaits (w :: ws) rest s = runWaits ws rest
      (finishRead (txaFrame w.word) (record (.readOk Config.dataBase (txaFrame w.word)) s)) := by
  obtain ⟨hr, ht⟩ := answers_of_waitOk hok
  exact runWaits_cons hv hok ws rest (by rw [hp]; rfl) (edge_readOk hr rfl ht hp hw)

theorem runWaits_read_fail (hp : s.ph = .rd) (hw : txaOk w.word = false) :
    runWaits (w :: ws) rest s =
      runWaits ws rest (raise .transportError (record (.readFail Config.dataBase) s)) := by
  obtain ⟨hr, ht⟩ := answers_of_waitOk hok
  exact runWaits_cons hv hok ws rest (by rw [hp]; rfl) (edge_readFail hr rfl ht hp hw)

end

/-! ## A whole INIT (R116) -/

/-- INIT has requested write `k`+1, the `k` writes before it answered Ok. -/
def initReached (k : Fin 4) (s : State) : State :=
  startInitWrite k { s with trace := s.trace ++ initOkEvents k.val }

theorem initReached_zero (s : State) : initReached 0 s = startInitWrite 0 s := by
  simp [initReached, initOkEvents]

/-- INIT-OK-k for k = 0, 1, 2 is one write of INIT further. -/
theorem afterInitWrite_initReached (k : Fin 3) (s : State) :
    afterInitWrite k.castSucc (record (initOkEvent k.castSucc) (initReached k.castSucc s)) =
      initReached k.succ s := by
  have hnext (s : State) : afterInitWrite k.castSucc s = startInitWrite k.succ s := by
    fin_cases k <;> rfl
  have htrace : s.trace ++ initOkEvents k.succ.val =
      s.trace ++ initOkEvents k.castSucc.val ++ [initOkEvent k.castSucc] := by
    rw [List.append_assoc, ← initOkEvents_succ, Fin.val_succ, Fin.val_castSucc]
  rw [hnext, initReached, initReached, htrace]
  rfl

/-- The first `k` waits of INIT answered Ok: INIT has reached write `k`+1 with the waits that are left. -/
theorem runWaits_initReached (rest : List Pins) (ws : List Wait) (hok : ∀ w ∈ ws, w.Ok)
    (s : State) (k : Fin 4) :
    ∀ bs, (ws.map fun w => txaOk w.word) = List.replicate k.val true ++ bs →
      ∃ ws', (∀ w ∈ ws', w.Ok) ∧ (ws'.map fun w => txaOk w.word) = bs ∧
        runWaits ws rest (initReached 0 s) = runWaits ws' rest (initReached k s) := by
  induction k using Fin.induction with
  | zero => exact fun bs h => ⟨ws, hok, h, rfl⟩
  | succ k ih =>
    intro bs h
    rw [Fin.val_succ, List.replicate_succ', List.append_assoc] at h
    obtain ⟨ws', hok', hbs, hrun⟩ := ih (true :: bs) h
    obtain ⟨w, ws'', rfl, hw, hbs'⟩ := List.map_eq_cons_iff.1 hbs
    refine ⟨ws'', fun v hv => hok' v (List.mem_cons_of_mem w hv), hbs', ?_⟩
    rw [hrun, runWaits_init_ok rfl (hok' w List.mem_cons_self) ws'' rest rfl hw,
      afterInitWrite_initReached]

/-- The waits of an INIT whose write `k`+1 is its last. -/
theorem runWaits_last_initReached (rest : List Pins) {ws : List Wait} (hok : ∀ w ∈ ws, w.Ok)
    (s : State) {k : Fin 4} {b : Bool}
    (h : (ws.map fun w => txaOk w.word) = List.replicate k.val true ++ [b]) :
    ∃ w, w.Ok ∧ txaOk w.word = b ∧
      runWaits ws rest (initReached 0 s) = runWaits [w] rest (initReached k s) := by
  obtain ⟨ws', hok', hb, hrun⟩ := runWaits_initReached rest ws hok s k [b] h
  obtain ⟨w, rfl, hw⟩ := List.map_eq_singleton_iff.1 hb
  exact ⟨w, hok' w List.mem_cons_self, hw, hrun⟩

end Sys2Proof.Machine
end

section
/-! PROOFS. The statements on the driver sequencer (spec/40_driver_sequencer.md): its table, and whole
commands. -/

namespace Sys2Proof.Machine

/-- Settles O53: every step of the table is the edge's, so where one is enabled the edge took it, and else it
waited. -/
theorem edgesAreTableSteps : Obligations.EdgesAreTableSteps := by
  intro s t hr hn
  refine ⟨edge_of_tableStep hr, fun h => ?_⟩
  by_cases hu : ∃ u, TableStep s u
  · obtain ⟨u, hu⟩ := hu
    exact .inl (tableStep_of_edge_eq hr h hu)
  · exact (tableStep_or_waited hr h hn).imp_right fun hw => ⟨not_exists.1 hu, hw⟩

/-- Settles O22: INIT's first `k` waits answered Ok lead to write `k`+1; with the last write answered Ok, or
write `k`+1 answered Fail, the run is over. -/
theorem wholeInitRun : Obligations.WholeInitRun := by
  intro s pad ws rest hp hd hr hc hin hok
  have hstart : step s =
      .next (drivenBy (waitEdges ws ++ rest) (initReached 0 (latch (0b00#2 ++ pad) s))) := by
    rw [step_of_edge (edge_acceptInit hr hp hc (cmdWordC_op _ pad) hd) rfl, hin, initReached_zero]
  refine ⟨fun h => ?ok, fun k h => ?fail⟩ <;> rw [runSteps_succ _ hstart, ← runWaits]
  case ok =>
    obtain ⟨w, hwok, hw, hrun⟩ := runWaits_last_initReached (k := 3) rest hok _ h
    have htrace : s.trace ++ initOkEvents 3 ++ [initOkEvent 3] = s.trace ++
        [.writeOk 0x2C 0x0A, .writeOk 0x2D 0x08, .writeOk 0x2E 0x00, .writeOk 0x31 0x00] :=
      List.append_assoc ..
    rw [hrun, runWaits_init_ok rfl hwok [] rest rfl hw, runWaits_nil, ← htrace]
    rfl
  case fail =>
    obtain ⟨w, hwok, hw, hrun⟩ := runWaits_last_initReached rest hok _ h
    rw [hrun, runWaits_init_fail rfl hwok [] rest rfl hw, runWaits_nil]
    rfl

/-- Settles O27: READ is accepted, its request waits, and its answer ends the run. -/
theorem wholeReadRun : Obligations.WholeReadRun := by
  intro s pad w rest hp hd hr hc hin hok
  have hstart := step_of_edge (edge_acceptReadReady hr hp hc (cmdWordC_op _ pad) hd) rfl
  rw [hin] at hstart
  refine ⟨fun hw => ?ok, fun hw => ?fail⟩ <;> rw [runSteps_succ _ hstart, ← runWaits]
  case ok =>
    rw [runWaits_read_ok rfl hok [] rest rfl hw, runWaits_nil]
    rfl
  case fail =>
    rw [runWaits_read_fail rfl hok [] rest rfl hw, runWaits_nil]
    rfl

/-- Settles O34: ACCEPT-ANGLE, then ANGLE-DONE on the operands in `CMDR`. -/
theorem wholeAngleRun : Obligations.WholeAngleRun := by
  intro s op a z p rest ho hp hr hc hin hpr
  have hop : (op ++ (a ++ z)).extractLsb' 40 2 = op := cmdWordA_op op a z
  have haccept := step_of_edge (edge_acceptAngle hr hp hc (hop.symm ▸ ho)) rfl
  rw [hin] at haccept
  have hcmdr : some (op ++ (a ++ z)) = some (cmdWordA 0b10 a z) ∨
      some (op ++ (a ++ z)) = some (cmdWordA 0b11 a z) := by
    rcases ho with rfl | rfl
    · exact .inl rfl
    · exact .inr rfl
  have hdone := step_of_edge (s := drivenBy (p :: rest) (setPhase .ang (latch (op ++ (a ++ z)) s)))
    (edge_ang hpr rfl hcmdr) rfl
  refine ⟨⟨_, runSteps_succ 0 haccept, rfl⟩, ?_⟩
  rw [runSteps_succ 1 haccept, runSteps_succ 0 hdone]
  rfl

end Sys2Proof.Machine
end

section
/-! SUPPORT. The frame decoder (spec/41_frame_decoder.md): one raw value and its pair of bytes. -/

namespace Sys2Proof.Machine

/-- The pair, high byte first, is a 16-bit word put together as a write frame's is. -/
theorem rawValue_eq_toInt_writeFrameWord (low high : Byte) :
    rawValue low high = (writeFrameWord high low).toInt := rfl

theorem rawValue_eq_sum (low high : Byte) :
    rawValue low high = low.toNat + 256 * high.toNat - (if high.getLsbD 7 then 65536 else 0) := by
  have hsign : high.toInt = if high.getLsbD 7 then (high.toNat : Int) - 256 else high.toNat := by
    rw [BitVec.toInt_eq_msb_cond, BitVec.msb_eq_getLsbD_last]
    rfl
  have hpair : rawValue low high = 256 * high.toInt + low.toNat := BitVec.toInt_append
  rw [hpair, hsign]
  split <;> omega

theorem rawValue_inj {low high low' high' : Byte} (h : rawValue low high = rawValue low' high') :
    low = low' ∧ high = high' :=
  (writeFrameWord_inj (BitVec.toInt_inj.1 h)).symm

theorem rawValue_bytes (w : BitVec 16) :
    rawValue (w.extractLsb' 0 8) (w.extractLsb' 8 8) = w.toInt := by
  rw [rawValue_eq_toInt_writeFrameWord, writeFrameWord_fields]

/-- The inverse of R141, for one axis. -/
theorem rawValue_bytes_ofInt {v : Int} (hlo : -32768 ≤ v) (hhi : v ≤ 32767) :
    rawValue ((BitVec.ofInt 16 v).extractLsb' 0 8) ((BitVec.ofInt 16 v).extractLsb' 8 8) = v := by
  rw [rawValue_bytes]
  exact BitVec.toInt_ofInt_eq_self (by decide) hlo (Int.lt_add_one_of_le hhi)

end Sys2Proof.Machine
end

section
/-! PROOFS. The statements on the frame decoder (spec/41_frame_decoder.md). -/

namespace Sys2Proof.Machine

/-- Settles O37: each axis is one-to-one on its own pair of bytes, and its value comes back from them. -/
theorem decodeIsOneToOne : Obligations.DecodeIsOneToOne := by
  refine ⟨fun f g h => ?injective, fun x y z hx hx' hy hy' hz hz' => ?onto⟩
  case injective =>
    obtain ⟨f0, f1, f2, f3, f4, f5⟩ := f
    obtain ⟨g0, g1, g2, g3, g4, g5⟩ := g
    obtain ⟨hx, hy, hz⟩ := Axes.mk.inj h
    obtain ⟨rfl, rfl⟩ := rawValue_inj hx
    obtain ⟨rfl, rfl⟩ := rawValue_inj hy
    obtain ⟨rfl, rfl⟩ := rawValue_inj hz
    rfl
  case onto =>
    rw [decodeFrame, rawValue_bytes_ofInt hx hx', rawValue_bytes_ofInt hy hy',
      rawValue_bytes_ofInt hz hz']

/-- Settles O36: each axis is the sum of its own pair of bytes. -/
theorem decodedValues : Obligations.DecodedValues := fun f =>
  ⟨rawValue_eq_sum f.b0 f.b1, rawValue_eq_sum f.b2 f.b3, rawValue_eq_sum f.b4 f.b5⟩

/-- Settles O38: each axis is `rawValue` of its own pair of bytes. -/
theorem decodedPairsAreIndependent : Obligations.DecodedPairsAreIndependent := fun _ _ =>
  ⟨congrArg₂ rawValue, congrArg₂ rawValue, congrArg₂ rawValue⟩

end Sys2Proof.Machine
end

section
/-! SUPPORT. The converter (spec/42_converter.md): the zero-snap, and what CONVERT answers on each side of its
threshold. -/

namespace Sys2Proof.Machine

theorem belowSnap_iff_abs_lt (t : Int) : belowSnap t = true ↔ |t| < 5 := by
  rw [belowSnap, decide_eq_true_iff, Int.abs_eq_natAbs]
  rfl

theorem addOffset_scale (r off : Int) : addOffset (scale r) off = 4 * r + off := rfl

theorem belowSnap_addOffset_scale_iff (r off : Int) :
    belowSnap (addOffset (scale r) off) = true ↔ -5 < 4 * r + off ∧ 4 * r + off < 5 :=
  (belowSnap_iff_abs_lt _).trans abs_lt

theorem convert_of_abs_lt {r off : Int} (h : |4 * r + off| < 5) : convert r off = 0 :=
  if_pos ((belowSnap_iff_abs_lt _).2 h)

theorem convert_of_le_abs {r off : Int} (h : 5 ≤ |4 * r + off|) : convert r off = 4 * r + off :=
  if_neg (mt (belowSnap_iff_abs_lt _).1 h.not_gt)

/-- The gap of R153: no result has magnitude 1 to 4. -/
theorem convert_eq_zero_or_le_abs (r off : Int) : convert r off = 0 ∨ 5 ≤ |convert r off| := by
  rcases lt_or_ge |4 * r + off| 5 with h | h
  · exact .inl (convert_of_abs_lt h)
  · exact .inr ((convert_of_le_abs h).symm ▸ h)

/-- The range of SCALE (R151). -/
theorem scale_bounds (r : BitVec 16) : -131072 ≤ scale r.toInt ∧ scale r.toInt ≤ 131068 := by
  have hr := toInt_bounds_16 r
  simp only [scale, Config.factorMg]
  omega

/-- The range of OFFSET (R152). -/
theorem addOffset_scale_bounds (r off : BitVec 16) :
    -163840 ≤ addOffset (scale r.toInt) off.toInt ∧
    addOffset (scale r.toInt) off.toInt ≤ 163835 := by
  have hs := scale_bounds r
  have hoff := toInt_bounds_16 off
  rw [addOffset]
  omega

/-- A sum of magnitude 5 needs an odd offset, since SCALE answers multiples of 4. -/
theorem offset_odd_of_abs_eq_five {r off : Int} (h : |addOffset (scale r) off| = 5) :
    off % 2 = 1 := by
  rw [addOffset_scale] at h
  rcases eq_or_eq_neg_of_abs_eq h with h | h <;> omega

end Sys2Proof.Machine
end

section
/-! PROOFS. The statements on the converter (spec/42_converter.md). -/

namespace Sys2Proof.Machine

/-- Settles O40: the ranges of SCALE, OFFSET and CONVERT in turn, and the gap. -/
theorem convertNeverOverflows : Obligations.ConvertNeverOverflows := by
  intro r off
  obtain ⟨hslo, hshi⟩ := scale_bounds r
  obtain ⟨htlo, hthi⟩ := addOffset_scale_bounds r off
  obtain ⟨hlo, hhi⟩ := convert_bounds r off
  exact ⟨hslo, hshi, htlo, hthi, hlo, hhi, convert_eq_zero_or_le_abs _ _⟩

/-- Settles O41: the threshold as an open interval, solved for `r` at the two default offsets. -/
theorem whichRawValuesSnap : Obligations.WhichRawValuesSnap := by
  refine ⟨belowSnap_addOffset_scale_iff, fun r => ?offset0, fun r => ?offset100,
    fun _ _ => offset_odd_of_abs_eq_five, ?kept⟩
  case offset0 =>
    rw [belowSnap_addOffset_scale_iff]
    omega
  case offset100 =>
    rw [belowSnap_addOffset_scale_iff]
    omega
  case kept => exact convert_of_le_abs (by decide)

/-- Settles O39: one equation for each side of the threshold. -/
theorem convertFormula : Obligations.ConvertFormula := fun _ _ =>
  ⟨convert_of_abs_lt, convert_of_le_abs⟩

end Sys2Proof.Machine
end

section
/-! SUPPORT. The angle calculator (spec/43_angle.md): the sign of the exact angle, what (P1) and (P2) say of an
angle, the rounding of R179, and the payload that carries an angle. -/

namespace Sys2Proof.Machine

/-! ## The exact angle (R172) -/

/-- `1000 * THETA` is a positive multiple of the arctangent. -/
theorem thetaMdeg_eq_mul_arctan (a z : ℤ) :
    Config.thetaMdeg a z = 180000 / 3.14159265359 * Real.arctan ((a : ℝ) / (z : ℝ)) := by
  rw [Config.thetaMdeg, Config.piBz_real]
  ring

theorem thetaMdeg_pos {a z : ℤ} (h : 0 < a * z) : 0 < Config.thetaMdeg a z := by
  have hquot : (0 : ℝ) < (a : ℝ) / (z : ℝ) := div_pos_iff.2 (mul_pos_iff.1 (mod_cast h))
  rw [thetaMdeg_eq_mul_arctan]
  exact mul_pos (by norm_num) (Real.arctan_pos.2 hquot)

theorem thetaMdeg_neg {a z : ℤ} (h : a * z < 0) : Config.thetaMdeg a z < 0 := by
  have hquot : (a : ℝ) / (z : ℝ) < 0 := div_neg_iff.2 (mul_neg_iff.1 (mod_cast h))
  rw [thetaMdeg_eq_mul_arctan]
  exact mul_neg_of_pos_of_neg (by norm_num) (Real.arctan_lt_zero.2 hquot)

/-! ## An angle that meets (P1) and (P2) (R173) -/

section
variable {a z m : ℤ} (hm : Config.Admissible a z m)
include hm

theorem admissible_bounds : -89999 ≤ m ∧ m ≤ 90000 := by
  obtain ⟨-, hlo, hhi⟩ := hm
  exact ⟨hlo, hhi⟩

/-- By (P1) the angle is above -1, so it is not negative. -/
theorem admissible_nonneg (h : 0 < a * z) : 0 ≤ m := by
  obtain ⟨hclose, -⟩ := abs_lt.1 hm.1
  have habove : (-1 : ℝ) < m := by linarith [thetaMdeg_pos h]
  have : -1 < m := mod_cast habove
  omega

/-- By (P1) the angle is below 1, so it is not positive. -/
theorem admissible_nonpos (h : a * z < 0) : m ≤ 0 := by
  obtain ⟨-, hclose⟩ := abs_lt.1 hm.1
  have hbelow : (m : ℝ) < 1 := by linarith [thetaMdeg_neg h]
  have : m < 1 := mod_cast hbelow
  omega

theorem admissible_ne_zero (h : 1 ≤ |Config.thetaMdeg a z|) : m ≠ 0 := by
  rintro rfl
  have hclose : |Config.thetaMdeg a z| < 1 := by simpa using hm.1
  exact hclose.not_ge h

end

/-! ## The reference angle (R179) -/

/-- The nearest integer to the exact angle is in range but for the end that R179 replaces. -/
theorem round_thetaMdeg_bounds (a z : ℤ) :
    -90000 ≤ round (Config.thetaMdeg a z) ∧ round (Config.thetaMdeg a z) ≤ 90000 := by
  obtain ⟨hlo, hhi⟩ := Config.thetaMdeg_range a z
  obtain ⟨hdown, hup⟩ := abs_le.1 (abs_sub_round (Config.thetaMdeg a z))
  have hbelow : ((-90001 : ℤ) : ℝ) < round (Config.thetaMdeg a z) := by push_cast; linarith
  have habove : (round (Config.thetaMdeg a z) : ℝ) < (90001 : ℤ) := by push_cast; linarith
  have := Int.cast_lt.1 hbelow
  have := Int.cast_lt.1 habove
  omega

/-- Where the nearest integer is -90000 the exact angle is between it and -89999.5, so -89999 is close too. -/
theorem atanRef_close (a z : ℤ) : |(atanRef a z : ℝ) - Config.thetaMdeg a z| < 1 := by
  obtain ⟨hlo, -⟩ := Config.thetaMdeg_range a z
  obtain ⟨hdown, hup⟩ := abs_le.1 (abs_sub_round (Config.thetaMdeg a z))
  rw [abs_lt, atanRef]
  split_ifs with h
  · rw [h] at hdown hup
    push_cast at hdown hup ⊢
    constructor <;> linarith
  · constructor <;> linarith

theorem atanRef_bounds (a z : ℤ) : -90000 < atanRef a z ∧ atanRef a z ≤ 90000 := by
  obtain ⟨hlo, hhi⟩ := round_thetaMdeg_bounds a z
  rw [atanRef]
  split_ifs <;> omega

/-! ## ANGLE (R171) -/

theorem isZero_iff {c : Comp} : isZero c = true ↔ c = 0 := decide_eq_true_iff

theorem angle_zero_right (a : Comp) : angle a 0 = 90000 := rfl

theorem angle_zero_left {z : Comp} (hz : z ≠ 0) : angle 0 z = 0 :=
  if_neg (mt isZero_iff.1 hz)

theorem angle_of_ne_zero {a z : Comp} (ha : a ≠ 0) (hz : z ≠ 0) :
    angle a z = (Config.atanMdeg a z).toInt :=
  (if_neg (mt isZero_iff.1 hz)).trans (if_neg (mt isZero_iff.1 ha))

/-- The contract of the approximant, as the angle keeps it (R173). -/
theorem angle_admissible {a z : Comp} (ha : a ≠ 0) (hz : z ≠ 0) :
    Config.Admissible a.toInt z.toInt (angle a z) := by
  rw [angle_of_ne_zero ha hz]
  exact Config.atanMdeg_contract a z ha hz

theorem angle_bounds (a z : Comp) : -89999 ≤ angle a z ∧ angle a z ≤ 90000 := by
  rcases eq_or_ne z 0 with rfl | hz
  · rw [angle_zero_right]
    decide
  rcases eq_or_ne a 0 with rfl | ha
  · rw [angle_zero_left hz]
    decide
  · exact admissible_bounds (angle_admissible ha hz)

/-! ## The payload of TILT and AWE (R87) -/

theorem anglePayload_field (m : Int) : (anglePayload m).extractLsb' 0 18 = tc 18 m := by
  rw [anglePayload, ← BitVec.setWidth_eq_extractLsb' (by decide),
    BitVec.setWidth_setWidth_of_le _ (by decide), BitVec.setWidth_eq]

theorem anglePayload_above_field (m : Int) : (anglePayload m).extractLsb' 18 42 = 0 := by
  ext i hi
  simp [anglePayload]

/-- An angle in range is held by its 18-bit field. -/
theorem toInt_tc_angle (a z : Comp) : (tc 18 (angle a z)).toInt = angle a z := by
  obtain ⟨hlo, hhi⟩ := angle_bounds a z
  exact BitVec.toInt_ofInt_eq_self (by decide) (by omega) (by omega)

end Sys2Proof.Machine
end

section
/-! PROOFS. The statements on the angle calculator (spec/43_angle.md). -/

namespace Sys2Proof.Machine

/-- Settles O31: the approximant's contract, with the value of `PI_BZ`. -/
theorem angleWithinContract : Obligations.AngleWithinContract := by
  intro a z ha hz
  rw [← Config.piBz_real]
  exact angle_admissible ha hz

/-- Settles O32: in range, an angle is held by its field. -/
theorem angleFieldHoldsAngle : Obligations.AngleFieldHoldsAngle := by
  intro a z
  obtain ⟨hlo, hhi⟩ := angle_bounds a z
  refine ⟨hlo, hhi, ?_, anglePayload_above_field _⟩
  rw [anglePayload_field, toInt_tc_angle]

/-- Settles O33: for `a = 0` no clause has anything to show, else (P1) keeps the sign. -/
theorem angleSign : Obligations.AngleSign := by
  intro a z hz
  rcases eq_or_ne a 0 with rfl | ha
  · rw [angle_zero_left hz]
    exact ⟨fun _ => le_rfl, fun _ => le_rfl, fun h => absurd rfl h⟩
  · have hm := angle_admissible ha hz
    exact ⟨admissible_nonneg hm, admissible_nonpos hm, fun _ => admissible_ne_zero hm⟩

/-- Settles O35: the nearest integer is close and in range, and so is -89999 where R179 puts it. -/
theorem referenceAngleIsAdmissible : Obligations.ReferenceAngleIsAdmissible := fun a z =>
  ⟨atanRef_close a z, atanRef_bounds a z⟩

/-- Settles O29: both are the one angle command, which reads its operands alone. -/
theorem angleCommandsRespond : Obligations.AngleCommandsRespond := fun a z _ hp =>
  ⟨angleCommand_ang hp 0b10 a z, angleCommand_ang hp 0b11 a z⟩

/-- Settles O30: one equation for each case of R171. -/
theorem angleByCases : Obligations.AngleByCases :=
  ⟨angle_zero_right, fun _ => angle_zero_left, fun _ _ => angle_of_ne_zero⟩

end Sys2Proof.Machine
end

section
/-! SUPPORT. What the machine does while the Transport does not answer (spec/60_exceptions.md R206): no
answer is taken, an exposed primitive changes nothing, and a run over quiet edges only waits. -/

namespace Sys2Proof.Machine

/-- No answer is taken while the request is on the channel, or while none is offered (log entry 8). -/
theorem transportAnswer_eq_none {s : State} (h : s.txqValid = true ∨ s.pins.txa = none) :
    transportAnswer s = none := by
  unfold transportAnswer
  split
  · rfl
  · rename_i hq
    exact h.resolve_left hq

/-! ## The primitives on the model's own port (log entries 4 and 16) -/

section
variable {s : State} (hp : s.ph = .idle) (ht : s.pins.txa = none)
include hp ht

theorem exposedWrite_unanswered (a v : Byte) : exposedWrite a v s = .next s := by
  simp [exposedWrite, hp, regwr_byte, ht, callPrim]

theorem exposedRead_unanswered (a : Byte) : exposedRead a s = .next s := by
  simp [exposedRead, hp, regrd_byte, ht, callPrim]

end

/-! ## Quiet edges -/

section
variable {s : State} (hw : waitsForAnswer s.ph = true)
include hw

theorem step_quiet {p : Pins} (hp : Quiet p) (ps : List Pins) :
    step (drivenBy (p :: ps) s) =
      .next (drivenBy ps { s with txqValid := s.txqValid && !p.txqReady }) := by
  obtain ⟨hr, ht⟩ := hp
  exact step_waiting hw hr (transportAnswer_eq_none (.inr ht))

/-- Where the environment's list ends it drives nothing, which is quiet (log entry 6). -/
theorem step_undriven : step (drivenBy [] s) = .next (drivenBy [] s) := by
  have hstep := step_quiet hw (p := {}) ⟨rfl, rfl⟩ []
  rw [Bool.not_false, Bool.and_true] at hstep
  exact hstep

/-- A run over quiet edges: the request is on the channel until the first edge at which the Transport takes
it, and nothing else changes. -/
theorem runSteps_quiet (n : Nat) {ps : List Pins} (hps : ∀ p ∈ ps, Quiet p) :
    runSteps n (drivenBy ps s) =
      .next (drivenBy (ps.drop n)
        { s with txqValid := s.txqValid && (ps.take n).all (fun p => !p.txqReady) }) := by
  induction n generalizing s ps with
  | zero => simp [runSteps]
  | succ n ih =>
    cases ps with
    | nil =>
      rw [runSteps_succ n (step_undriven hw), ih hw hps, List.take_nil, List.take_nil, List.drop_nil,
        List.drop_nil]
    | cons p ps =>
      obtain ⟨hp, hps⟩ := List.forall_mem_cons.1 hps
      rw [runSteps_succ n (step_quiet hw hp ps), List.take_succ_cons, List.drop_succ_cons,
        List.all_cons, ← Bool.and_assoc]
      exact ih (s := { s with txqValid := s.txqValid && !p.txqReady }) hw hps

end

end Sys2Proof.Machine
end

section
/-! PROOFS. The statements on a Transport that does not answer (spec/60_exceptions.md R206). -/

namespace Sys2Proof.Machine

/-- Settles O9: the state's own pins and inputs are a list of quiet edges. -/
theorem unansweredTransactionHangs : Obligations.UnansweredTransactionHangs := by
  intro s hw hp hin n
  have hinputs : ((s.pins :: s.inputs).drop n).tail = s.inputs.drop n := by
    rw [List.tail_drop, List.drop_succ_cons]
  rw [← hinputs]
  exact runSteps_quiet hw n (List.forall_mem_cons.2 ⟨hp, hin⟩)

/-- Settles O48: in IDLE each frame is an exposed primitive, and in the phase that sends it the frame and its
command are INIT's own write or READ's own read. -/
theorem unansweredFrameChangesNothing : Obligations.UnansweredFrameChangesNothing := by
  intro s
  refine ⟨fun hp ht a v => ?prims, fun k hp ht => ?initFrames, fun k hp h => ?initFrame,
    fun pad k hp h => ?init, fun pad hp h => ?read⟩
  case prims =>
    have hwrite := exposedWrite_unanswered hp ht a v
    have hread := exposedRead_unanswered hp ht
    have hselect : exec .readSelect s = exposedRead Config.dataBase s :=
      exec_readSelect_of_ne (by simp [hp])
    exact ⟨hwrite, hwrite, hread a, hread a, hselect.trans (hread Config.dataBase)⟩
  case initFrames => rw [exec_initInstr_of_ne (by simp [hp]), exposedWrite_unanswered hp ht]
  case initFrame =>
    rw [exec_initInstr hp, initWriteStep_unanswered (transportAnswer_eq_none h), transferRequest]
  case init =>
    rw [exec_init_init hp, initWriteStep_unanswered (transportAnswer_eq_none h), transferRequest]
  case read =>
    rw [exec_read_rd hp, exec_readSelect_rd hp]
    exact ⟨rfl, readStep_unanswered (transportAnswer_eq_none h)⟩

end Sys2Proof.Machine
end

section
/-! PROOFS. The statements on reset and hazards (spec/70_reset_and_hazards.md). -/

namespace Sys2Proof.Machine

/-- Settles O13: without `RSP_READY` the edge of RESP takes no response. -/
theorem responseIsHeld : Obligations.ResponseIsHeld := by
  intro s hr hp hy
  have hheld : (s.rspValid && s.pins.rspReady) = false := by rw [hy, Bool.and_false]
  rw [step, edge_resp hr hp, respEdge_held hheld, onNext_next]

/-- Settles O15: the reset edge has a next state in IDLE only. -/
theorem resetWhileBusyIsRefused : Obligations.ResetWhileBusyIsRefused := by
  intro s hr hp
  rw [step, edge_reset hr, resetEdge_busy hp, onNext_refused]

end Sys2Proof.Machine
end

section
/-! PROOFS. The sample words of spec/30_encoding.md, the edge as the meaning of its word, and the invariant
at reset. -/

namespace Sys2Proof

/-- The round trip, read at a word: a well-formed instruction's word decodes to it. -/
theorem decode_of_encode {w : Encoded} {i : Instr} (hi : i.WellFormed) (hw : encode i = w) :
    decode w = .ok i := by
  rw [← hw]
  exact decodeInvertsEncode i hi

/-- Settles O4: each of the twelve words is that of its instruction, which is well formed, and the request
decoder evaluates to each of the three rejections. -/
theorem specWordsDecode : Obligations.SpecWordsDecode := by
  refine ⟨?_, ?_, ?_, ?_, ?_, ?_, ?_, ?_, ?_, ?_, ?_, ?_, ?rejected⟩
  case rejected => exact ⟨rfl, rfl, rfl⟩
  all_goals exact decode_of_encode rfl rfl

namespace Machine

/-- Settles O6: without reset the edge runs the word at hand, and its word is its decoded instruction. -/
theorem stepRunsDecodedWord : Obligations.StepRunsDecodedWord := fun _ _ _ hr hw hi =>
  step_of_fetchWord hr hw hi

/-- Settles O50: the reset event leaves the reset state as it is, and what it leaves meets the invariant. -/
theorem resetMeetsInvariant : Obligations.ResetMeetsInvariant := by
  have hfix : takeReset State.reset = State.reset := rfl
  rw [Obligations.ResetMeetsInvariant, ← hfix]
  exact inv_takeReset State.reset

end Machine

end Sys2Proof
end
